-- ==== Sys2Proof/Word.lean ====
section
/-! DEFINITION. The element of the queue. The other values of the block are `W`-bit unsigned numbers; the width
`W` is a parameter of the block (00_scope.md R6), so a `W`-bit register, a command word and a response word are held
as the natural number they stand for (R9: no quantity is signed), and every operation that writes a register reduces
it below `2^W` (notes/assumptions/2.md). -/

namespace Sys2Proof

/-- One stored element: `DATA_W = 8` bits, opaque to the block (00_scope.md R6, 43_arithmetic_and_properties.md R210). -/
abbrev Byte := BitVec 8

end Sys2Proof
end

