-- ==== Sys2Proof/Config.lean ====
section
/-! DEFINITION. The parameters of the block (00_scope.md R6) and the values the spec leaves free. -/

namespace Sys2Proof

/-- `VIEW` (R6, 20_memory.md R72 and R81): does a port see the current value of a counter it does not own,
or may it be given an older one? -/
inductive View where
  | sc
  | stale
  deriving DecidableEq, Repr

/-- The OPEN parameters of R6. They are fixed for the life of the block (10_state.md R33); the state carries
them, so that a statement about every state holds for every value of them (notes/assumptions/1.md). -/
structure Config where
  /-- `W`: the width in bits of the counters, the indices and `capacity`. -/
  w : Nat
  /-- `DEPTH`: the length in bytes of the attached storage region. -/
  depth : Nat
  /-- `STORAGE_BASE`: the physical address of slot 0. -/
  storageBase : Nat
  /-- `HARDENED`: false is the reference (unchecked) behaviour, true the hardened one. -/
  hardened : Bool
  /-- `VIEW`. -/
  view : View
  deriving DecidableEq, Repr

namespace Config

/-- The parameter values R6 admits: `W >= 1` and `DEPTH >= 1`. -/
def wf (cfg : Config) : Bool := decide (1 ≤ cfg.w) && decide (1 ≤ cfg.depth)

/-- `R`, CounterRange: the modulus of counter arithmetic, `2^W` (R6). -/
def range (cfg : Config) : Nat := 2 ^ cfg.w

/-- `OPW = max(W, DATA_W)`: the width of the operand and of the response value (R6). -/
def opw (cfg : Config) : Nat := max cfg.w 8

/-- The reference configuration: `W = 8`, `DEPTH = 256`, `STORAGE_BASE = 0`, `VIEW = SC` (R6), with
`HARDENED = 1`, the default that decision D5 recommends (DESIGN CHOICE, notes/assumptions/1.md, unsafe for a
claim about the reset state alone; a claim about every state does not rest on it). -/
def reference : Config :=
  { w := 8, depth := 256, storageBase := 0, hardened := true, view := .sc }

/-- What the byte at a physical address is before any `WRITE` has stored there: unspecified, one arbitrary
byte per slot, fixed at reset (10_state.md R44, decision D14). A free value: it has no body, so nothing can be
proved of it (notes/assumptions/5.md, safe). -/
opaque initialByte : Nat → Byte

/-- Which of the instants that `VIEW = STALE` allows a port is given (20_memory.md R81): a free choice, applied to
the counter `draws` of the state. It has no body (notes/assumptions/6.md). -/
opaque staleChoice : Nat → Nat

end Config

end Sys2Proof
end

