-- ==== Sys2Proof/Syntax.lean ====
section
/-! DEFINITION. The operations of the block, the ports they are given to, and the responses they end with
(30_encoding.md). -/

namespace Sys2Proof

/-- The three command ports (00_scope.md R8): P, C and X. -/
inductive Port where
  /-- Port P. -/
  | producer
  /-- Port C. -/
  | consumer
  /-- Port X. -/
  | controller
  deriving DecidableEq, Repr

/-- The eight operations (30_encoding.md R90, R91, R93), one constructor for each row of the opcode table.
The operand bits of an operation that takes no operand are ignored (R98) and are no part of it. -/
inductive Instr where
  /-- `INIT`: `capacity` is the whole operand field, of which the capacity register takes `operand[W-1:0]` (R96). -/
  | init (capacity : Nat)
  | isempty
  | isfull
  | availdata
  | availspace
  /-- `WRITE`: `value` is `operand[7:0]` (R96). -/
  | write (value : Byte)
  | read
  | flush
  deriving DecidableEq, Repr

/-- The mnemonics of R91. -/
def Instr.mnemonic : Instr → String
  | .init _ => "INIT"
  | .isempty => "ISEMPTY"
  | .isfull => "ISFULL"
  | .availdata => "AVAILDATA"
  | .availspace => "AVAILSPACE"
  | .write _ => "WRITE"
  | .read => "READ"
  | .flush => "FLUSH"

/-- The letter of a port in the textual syntax of R103. -/
def Port.letter : Port → String
  | .producer => "P"
  | .consumer => "C"
  | .controller => "X"

/-- One line of the textual syntax of R103, `<port>: <MNEMONIC> [<operand>]`, the operand in decimal. -/
def Instr.text (p : Port) (i : Instr) : String :=
  p.letter ++ ": " ++ i.mnemonic ++
    match i with
    | .init c => " " ++ toString c
    | .write v => " " ++ toString v.toNat
    | _ => ""

/-- The outcomes an operation reports (30_encoding.md R95). Codes 5, 6 and 7 are never produced and have no
constructor. -/
inductive Err where
  | ok
  | full
  | empty
  | invalidCapacity
  | illegalPort
  deriving DecidableEq, Repr

/-- A response (30_encoding.md R94): an error and a value. `encodeResponse` gives its word. -/
structure Response where
  err : Err
  value : Nat
  deriving DecidableEq, Repr

end Sys2Proof
end

