-- ==== Sys2Proof/WellFormed.lean ====
section
/-! DEFINITION. Which terms of `Instr` a command word can hold. -/

namespace Sys2Proof

/-- The operand of `INIT` fits the operand field of `OPW` bits (30_encoding.md R92). The byte of `WRITE` always
fits, and no other operation has an operand. Whether a capacity is LEGAL is no matter of form: R100 (c). -/
def Instr.wf (cfg : Config) : Instr → Bool
  | .init c => decide (c < 2 ^ cfg.opw)
  | .isempty => true
  | .isfull => true
  | .availdata => true
  | .availspace => true
  | .write _ => true
  | .read => true
  | .flush => true

end Sys2Proof
end

