-- ==== Sys2Proof/Decode.lean ====
section
/-! DEFINITION. Command and response words (30_encoding.md): the decoder, then the encoder. -/

namespace Sys2Proof

/-- Why a word is no command. -/
inductive DecodeError where
  /-- It has more than the `3 + OPW` bits a command port has (R92), so no agent can present it. -/
  | wordTooWide
  deriving DecidableEq, Repr

/-- The operation codes of R93, with the operand assembly of R96: `INIT` takes the whole operand field, `WRITE`
its low eight bits, the others ignore it (R98). All eight codes are used (R100). -/
def decodeFields (op operand : Nat) : Except DecodeError Instr :=
  match op with
  | 0 => .ok (.init operand)
  | 1 => .ok .isempty
  | 2 => .ok .isfull
  | 3 => .ok .availdata
  | 4 => .ok .availspace
  | 5 => .ok (.write (BitVec.ofNat 8 operand))
  | 6 => .ok .read
  | 7 => .ok .flush
  | _ => .error .wordTooWide

/-- The command word `CMD`: `op` in bits `[OPW+2:OPW]`, the operand in bits `[OPW-1:0]` (R92). No mode changes
the decoding (R102). -/
def decode (cfg : Config) (word : Nat) : Except DecodeError Instr :=
  decodeFields (word / 2 ^ cfg.opw) (word % 2 ^ cfg.opw)

/-- The operation code of R93. -/
def Instr.opcode : Instr → Nat
  | .init _ => 0
  | .isempty => 1
  | .isfull => 2
  | .availdata => 3
  | .availspace => 4
  | .write _ => 5
  | .read => 6
  | .flush => 7

/-- The operand field an encoder emits: zeros where the operation takes no operand (R98). -/
def Instr.operand : Instr → Nat
  | .init c => c
  | .write v => v.toNat
  | .isempty => 0
  | .isfull => 0
  | .availdata => 0
  | .availspace => 0
  | .read => 0
  | .flush => 0

/-- The command word of an operation (R92, R93). -/
def encode (cfg : Config) (i : Instr) : Nat := i.opcode * 2 ^ cfg.opw + i.operand

/-- The error codes of R95. -/
def Err.code : Err → Nat
  | .ok => 0
  | .full => 1
  | .empty => 2
  | .invalidCapacity => 3
  | .illegalPort => 4

/-- The response word `RSP`: `err` in bits `[OPW+2:OPW]`, the value in bits `[OPW-1:0]` (R94). -/
def encodeResponse (cfg : Config) (r : Response) : Nat := r.err.code * 2 ^ cfg.opw + r.value

/-- The error a code of R95 stands for; codes 5, 6 and 7 are not used. -/
def Err.ofCode : Nat → Option Err
  | 0 => some .ok
  | 1 => some .full
  | 2 => some .empty
  | 3 => some .invalidCapacity
  | 4 => some .illegalPort
  | _ => none

/-- What an agent reads from a response word (R94); none for a word the block never produces. -/
def decodeResponse (cfg : Config) (word : Nat) : Option Response :=
  (Err.ofCode (word / 2 ^ cfg.opw)).map fun e => ⟨e, word % 2 ^ cfg.opw⟩

/-- The instruction the decoder reads from a row of spec/opcode_table.json, whose words are those of the reference
configuration. -/
def decodeTableWord (nbits w : Nat) : Option Instr :=
  match decode Config.reference (w % 2 ^ nbits) with
  | .ok i => some i
  | .error _ => none

end Sys2Proof
end

