-- ==== Sys2Proof/Machine/State.lean ====
section
/-! DEFINITION. Everything the spec gives the machine (10_state.md), the inputs of the agents outside it
(notes/assumptions/3.md), the model faults and the state after reset. -/

namespace Sys2Proof.Machine

/-- The attached memory: the bytes that a `WRITE` has stored, by physical address, the addresses strictly rising.
An address that is not listed has never been written and still holds its initial byte (`Memory.readByte`). -/
abbrev Memory := List Host.Cell

/-- One value for each port. -/
structure PerPort (α : Type) where
  producer : α
  consumer : α
  controller : α
  deriving DecidableEq, Repr

/-- The value of a port. -/
def PerPort.get {α : Type} (f : PerPort α) : Port → α
  | .producer => f.producer
  | .consumer => f.consumer
  | .controller => f.controller

/-- The values with the one of a port replaced. -/
def PerPort.set {α : Type} (f : PerPort α) (p : Port) (v : α) : PerPort α :=
  match p with
  | .producer => { f with producer := v }
  | .consumer => { f with consumer := v }
  | .controller => { f with controller := v }

/-- `P.phase` (10_state.md R35): where port P stands inside a `WRITE`. -/
inductive WritePhase where
  | idle
  /-- The byte has been stored, `writeCount` is not incremented yet. -/
  | stored
  /-- `writeCount` is incremented, `writeIndex` is not advanced yet. -/
  | counted
  deriving DecidableEq, Repr

/-- `C.phase` (10_state.md R36): where port C stands inside a `READ`. -/
inductive ReadPhase where
  | idle
  /-- The byte has been loaded, `readCount` is not incremented yet. -/
  | loaded
  /-- `readCount` is incremented, `readIndex` is not advanced yet. -/
  | counted
  deriving DecidableEq, Repr

/-- The counters and the capacity as they stood together at one instant: what a snapshot is of (41_query_ops.md R144). -/
structure Instant where
  writeCount : Nat
  readCount : Nat
  capacity : Nat
  deriving DecidableEq, Repr

/-- What each port may still be given instead of the current values (20_memory.md R81), the last one it observed first. All
empty while `VIEW = SC`, and after every `INIT`, `FLUSH` and reset (notes/assumptions/16.md). -/
structure Views where
  /-- The older values of `readCount` that port P may be given; `writeCount` is its own. -/
  pReadCounts : List Nat
  /-- The older values of `writeCount` that port C may be given; `readCount` is its own. -/
  cWriteCounts : List Nat
  /-- The earlier instants that port X may be given, each one whole (notes/assumptions/17.md). -/
  xInstants : List Instant
  deriving DecidableEq, Repr

/-- Every port sees the current values. -/
def Views.fresh : Views := ⟨[], [], []⟩

/-- When a port's agent made its last occupancy check, as counted in the commands it has presented (00_scope.md R12). -/
inductive CheckAge where
  | never
  /-- It has presented another command since. -/
  | earlier
  /-- It was the last command. -/
  | latest
  deriving DecidableEq, Repr

/-- What an agent will present on its port next (an input, no state of the block: 00_scope.md R8). -/
inductive Request where
  /-- A command word. `relies`: the agent presents it relying on the answer of its last occupancy check (00_scope.md R12);
  the block does not see that (notes/assumptions/3.md). -/
  | issue (word : Nat) (relies : Bool)
  /-- The command word, if the last response on this port was `OK 0`; else nothing: the second half of `PUT` and
  `GET` (30_encoding.md R104). -/
  | issueIfZero (word : Nat)
  deriving DecidableEq, Repr

/-- What happens next at the boundary of the block (an input). -/
inductive Event where
  /-- The port takes its next micro-step (20_memory.md R71). -/
  | turn (p : Port)
  /-- Reset is asserted (70_reset_and_hazards.md R260). -/
  | reset
  deriving DecidableEq, Repr

/-- The whole machine. INVENTORY.md lists each field with the rule that names it. -/
@[ext]
structure State where
  /-- The parameters of 00_scope.md R6. -/
  cfg : Config
  capacity : Nat
  writeIndex : Nat
  readIndex : Nat
  writeCount : Nat
  readCount : Nat
  storage : Memory
  pPhase : WritePhase
  /-- `P.latch`: the byte being written. -/
  pLatch : Byte
  /-- A hardened `WRITE` is between `WR0` and `WR1` (notes/assumptions/4.md). -/
  pChecked : Bool
  cPhase : ReadPhase
  /-- `C.latch`: the byte loaded. -/
  cLatch : Byte
  /-- A hardened `READ` is between `RD0` and `RD1` (notes/assumptions/4.md). -/
  cChecked : Bool
  /-- The response word of each port; none until its first operation completes (10_state.md R33). -/
  rsp : PerPort (Option Response)
  views : Views
  /-- How many free choices `VIEW = STALE` has taken (the model's own, notes/assumptions/6.md). -/
  draws : Nat
  /-- The commands each agent will present (an input). -/
  reqs : PerPort (List Request)
  /-- When each agent made its last occupancy check (a note on the agents, the model's own, notes/assumptions/3.md). -/
  checks : PerPort CheckAge
  /-- The order in which the ports take micro-steps (an input). -/
  events : List Event
  /-- The port whose command is being executed (the port is not encoded in the word, 30_encoding.md R92). -/
  port : Port
  deriving DecidableEq, Repr

/-- The situations without a meaning (60_exceptions.md R233). The spec has a model record the named fault for ever;
here the run ends with it. Safe: hardware would do something, the model says nothing about what. -/
inductive Fault where
  /-- `WRITE` or `READ` proceeds past its check with `capacity == 0` (42_data_ops.md R175). Safe. -/
  | noCapacity
  /-- `WRITE` or `READ` accesses a slot `>= DEPTH` (20_memory.md R68). Safe. -/
  | storageRange
  /-- `INIT` or `FLUSH` while a data port has an operation in flight (40_lifecycle_ops.md R124, R132). Safe. -/
  | exclusiveAccess
  deriving DecidableEq, Repr

/-- What has no meaning in this model. -/
inductive Refusal where
  /-- An operation without a meaning yet. No arm of `exec` raises it. Safe. -/
  | notModelled (mnemonic : String)
  /-- The fetch met a request that is wider than the command wires (notes/assumptions/12.md). Safe. -/
  | wordTooWide (word : Nat)
  deriving DecidableEq, Repr

/-- The three outcomes of one micro-step. -/
abbrev Result := Host.Outcome State Fault Refusal

/-- The state after reset for given parameters (70_reset_and_hazards.md R260, 10_state.md R43, R44), with no agent
yet at work. The latches are unspecified there; zero is this model's choice (DESIGN CHOICE,
notes/assumptions/8.md, unsafe). -/
def State.resetWith (cfg : Config) : State where
  cfg := cfg
  capacity := 0
  writeIndex := 0
  readIndex := 0
  writeCount := 0
  readCount := 0
  storage := []
  pPhase := .idle
  pLatch := 0
  pChecked := false
  cPhase := .idle
  cLatch := 0
  cChecked := false
  rsp := ⟨none, none, none⟩
  views := .fresh
  draws := 0
  reqs := ⟨[], [], []⟩
  checks := ⟨.never, .never, .never⟩
  events := []
  port := .controller

/-- The state after reset of the reference configuration. -/
def State.reset : State := State.resetWith Config.reference

end Sys2Proof.Machine
end

