-- ==== Sys2Proof/Machine/Flags.lean ====
section
/-! DEFINITION. The arithmetic of the block (43_arithmetic_and_properties.md R190 to R194) and the status and debug
outputs, all functions of the state (10_state.md R29 to R32, R40). -/

namespace Sys2Proof.Machine

/-- Counter increment, `(x + 1) mod 2^W` (R191). -/
def incW (cfg : Config) (x : Nat) : Nat := (x + 1) % cfg.range

/-- Index advance, `(i + 1) mod c` (R192). It has a meaning only for `c >= 1`; `capacityFault` keeps it from being
used with `c = 0` (42_data_ops.md R175). -/
def advIndex (c i : Nat) : Nat := (i + 1) % c

/-- Modular subtraction, `(a - b) mod 2^W` (R193). -/
def subW (cfg : Config) (a b : Nat) : Nat := (a + (cfg.range - b % cfg.range)) % cfg.range

/-- `occupied` from given values of the two counters (10_state.md R29). -/
def occupiedOf (cfg : Config) (writeCount readCount : Nat) : Nat := subW cfg writeCount readCount

/-- `EMPTY` from an occupancy (R31, R194). -/
def emptyOf (occupied : Nat) : Bool := decide (occupied = 0)

/-- `FULL` from a capacity and an occupancy, an unsigned comparison (R31, R194, 41_query_ops.md R148). -/
def fullOf (capacity occupied : Nat) : Bool := decide (capacity ≤ occupied)

/-- `AVAIL_SPACE` from a capacity and an occupancy, also out of contract (R32, 41_query_ops.md R146). -/
def spaceOf (cfg : Config) (capacity occupied : Nat) : Nat := subW cfg capacity occupied

/-- `occupied` at an instant (10_state.md R29). -/
def Instant.occupied (cfg : Config) (e : Instant) : Nat := occupiedOf cfg e.writeCount e.readCount

/-- The available space at an instant (10_state.md R32). -/
def Instant.space (cfg : Config) (e : Instant) : Nat := spaceOf cfg e.capacity (e.occupied cfg)

/-- The number of unread elements as the current counters give it (10_state.md R29). -/
def State.occupied (s : State) : Nat := occupiedOf s.cfg s.writeCount s.readCount

/-- The status output `EMPTY` (R31). -/
def State.emptyFlag (s : State) : Bool := emptyOf s.occupied

/-- The status output `FULL` (R31). -/
def State.fullFlag (s : State) : Bool := fullOf s.capacity s.occupied

/-- The status output `AVAIL_DATA` (R32). -/
def State.availData (s : State) : Nat := s.occupied

/-- The status output `AVAIL_SPACE` (R32). -/
def State.availSpace (s : State) : Nat := spaceOf s.cfg s.capacity s.occupied

/-- A truth value as a response value: 1 for true, 0 for false (30_encoding.md R97). -/
def boolValue (b : Bool) : Nat := if b then 1 else 0

/-- The phases other than IDLE (10_state.md R35). -/
def WritePhase.busy : WritePhase → Bool
  | .idle => false
  | .stored => true
  | .counted => true

/-- The phases other than IDLE (10_state.md R36). -/
def ReadPhase.busy : ReadPhase → Bool
  | .idle => false
  | .loaded => true
  | .counted => true

/-- A data port is inside an operation: its phase is not IDLE, or its hardened check has passed and its storage access
is still to come (notes/assumptions/4.md). Port X is never inside one: its operations are single steps
(40_lifecycle_ops.md R125, 41_query_ops.md R144). -/
def State.inFlight (s : State) : Port → Bool
  | .producer => s.pPhase.busy || s.pChecked
  | .consumer => s.cPhase.busy || s.cChecked
  | .controller => false

/-- What the block drives at every instant (10_state.md R32, R33, R40, 30_encoding.md R101, R105). -/
structure Outputs where
  empty : Bool
  full : Bool
  availData : Nat
  availSpace : Nat
  dbgCapacity : Nat
  dbgWriteIndex : Nat
  dbgReadIndex : Nat
  dbgWriteCount : Nat
  dbgReadCount : Nat
  /-- Which ports can accept a command (R101). -/
  cmdReady : PerPort Bool
  /-- The response words (R94). -/
  rsp : PerPort (Option Nat)
  deriving DecidableEq, Repr

/-- The outputs of a state. Reading them changes nothing (10_state.md R40). R32 has the four status outputs "equal at every
instant to what the corresponding query would return", and R31 makes them functions of the current state. Under
`VIEW = STALE` the two differ, since a query may answer of an earlier instant (R81, R144): the outputs then follow the
current registers (DESIGN CHOICE, notes/assumptions/18.md). Under SC they are what a query would return. -/
def State.outputs (s : State) : Outputs where
  empty := s.emptyFlag
  full := s.fullFlag
  availData := s.availData
  availSpace := s.availSpace
  dbgCapacity := s.capacity
  dbgWriteIndex := s.writeIndex
  dbgReadIndex := s.readIndex
  dbgWriteCount := s.writeCount
  dbgReadCount := s.readCount
  cmdReady := ⟨!s.inFlight .producer, !s.inFlight .consumer, !s.inFlight .controller⟩
  rsp := ⟨s.rsp.producer.map (encodeResponse s.cfg), s.rsp.consumer.map (encodeResponse s.cfg),
    s.rsp.controller.map (encodeResponse s.cfg)⟩

end Sys2Proof.Machine
end

