-- ==== Sys2Proof/Machine/Operands.lean ====
section
/-! DEFINITION. The operands of the operations: the capacity of `INIT`, the slots of `WRITE` and `READ`, and the ports
an operation may be given to. -/

namespace Sys2Proof.Machine

/-- The largest legal capacity, `min(2^W - 1, DEPTH)` (00_scope.md R6, R7, 90_conflicts.md C1). -/
def capMax (cfg : Config) : Nat := min (cfg.range - 1) cfg.depth

/-- What the capacity register takes of the operand of `INIT`: `operand[W-1:0]` (30_encoding.md R96, 40_lifecycle_ops.md
R122). -/
def capacityOperand (cfg : Config) (operand : Nat) : Nat := operand % cfg.range

/-- `invalid(c)` of the hardened `INIT`, on the full operand (40_lifecycle_ops.md R121): zero, beyond the counter
type's range, or longer than the storage. -/
def invalidCapacity (cfg : Config) (operand : Nat) : Bool :=
  decide (operand = 0) || decide (cfg.range - 1 < operand) || decide (cfg.depth < operand)

/-- The physical address the block presents for a slot (20_memory.md R60). -/
def slotAddress (cfg : Config) (slot : Nat) : Nat := cfg.storageBase + slot

/-- `READ` returns the byte zero-extended (42_data_ops.md R176, R178). -/
def byteValue (b : Byte) : Nat := b.toNat

/-- On which ports an operation is legal (30_encoding.md R99). -/
def legalOn : Instr → Port → Bool
  | .init _, .controller => true
  | .init _, _ => false
  | .flush, .controller => true
  | .flush, _ => false
  | .write _, .producer => true
  | .write _, _ => false
  | .read, .consumer => true
  | .read, _ => false
  | .isempty, _ => true
  | .isfull, _ => true
  | .availdata, _ => true
  | .availspace, _ => true

end Sys2Proof.Machine
end

