-- ==== Sys2Proof/Machine/Ops.lean ====
section
/-! DEFINITION. The operations the meanings share: storage bytes, responses and errors, the snapshot a port takes, the
reset of the queue's fields, and the checks that end in a model fault. -/

namespace Sys2Proof.Machine

/-! ### Storage -/

/-- The byte some `WRITE` has stored at an address; none if none has. -/
def Memory.lookup : Memory → Nat → Option Byte
  | [], _ => none
  | (k, b) :: m, a => if k = a then some b else Memory.lookup m a

/-- The byte at an address: the last one stored, else the free initial byte (10_state.md R44, 42_data_ops.md R173). -/
def Memory.readByte (m : Memory) (a : Nat) : Byte := (Memory.lookup m a).getD (Config.initialByte a)

/-- Store one byte, keeping the addresses rising. No other address changes (00_scope.md R10, `MemWrite`). -/
def Memory.writeByte : Memory → Nat → Byte → Memory
  | [], a, b => [(a, b)]
  | (k, c) :: m, a, b =>
    if a < k then (a, b) :: (k, c) :: m
    else if a = k then (a, b) :: m
    else (k, c) :: Memory.writeByte m a b

/-- The canonical form: addresses strictly rising. What an unlisted address holds is no value that can be listed
(`Memory.lookup` answers none), so no entry repeats it. -/
def Memory.wf : Memory → Bool
  | [] => true
  | [_] => true
  | (k, _) :: (l, c) :: m => decide (k < l) && Memory.wf ((l, c) :: m)

/-- The byte in a slot: what `MemRead(slot, 1)` returns (00_scope.md R10). -/
def State.byteAt (s : State) (slot : Nat) : Byte := Memory.readByte s.storage (slotAddress s.cfg slot)

/-- The storage after `MemWrite(slot, 1, v)` (00_scope.md R10). -/
def State.storedAt (s : State) (slot : Nat) (v : Byte) : Memory :=
  Memory.writeByte s.storage (slotAddress s.cfg slot) v

/-! ### Responses and errors -/

/-- `respond(err, value)`: the operation ends and its port returns the response (00_scope.md R10, 30_encoding.md R94). -/
def State.respond (s : State) (err : Err) (value : Nat) : State :=
  { s with rsp := s.rsp.set s.port (some ⟨err, value⟩) }

/-- `raise`: an error ends the operation with the response `(err, 0)` and changes nothing else; nothing is saved, no mode
changes and there is no return (60_exceptions.md R227, R229). -/
def State.raise (s : State) (err : Err) : State := s.respond err 0

/-- Port legality comes before everything else (60_exceptions.md R230, R232): on a port where the operation is illegal it
ends with `IllegalPort`. -/
def onLegalPort (i : Instr) (s : State) (body : Result) : Result :=
  if legalOn i s.port then body else .next (s.raise .illegalPort)

/-! ### What a port sees of the counters -/

/-- The current instant. -/
def State.now (s : State) : Instant := ⟨s.writeCount, s.readCount, s.capacity⟩

/-- What a port may be given instead of the current instant, the last one it observed first (20_memory.md R81). The ports P and C
see the counter they own as it is (R6, D11), and `capacity` too (notes/assumptions/16.md); the other counter is perhaps late.
Port X is given a whole instant. R81's "any value" is taken as it stands: where port P counts `WRITE`s without a check of its own
(in contract on a reference block, R12), it may still be given a read count so late that the two counters no longer tell how far
apart they are, and then R81's "can only refuse" and R208's licence do not hold of what it is given; so for port C (DESIGN CHOICE,
notes/assumptions/19.md). -/
def State.older (s : State) : Port → List Instant
  | .producer => s.views.pReadCounts.map fun r => ⟨s.writeCount, r, s.capacity⟩
  | .consumer => s.views.cWriteCounts.map fun w => ⟨w, s.readCount, s.capacity⟩
  | .controller => s.views.xInstants

/-- Which instant a port is given under STALE: the number of older ones it skips, a free choice among all that are allowed;
skipping every one means the current instant. So a port may be given a later one than the time before although
nothing has committed in between: R81 is read over R145's "with the same result" (DESIGN CHOICE,
notes/assumptions/17.md). -/
def skipped (draw : Nat) (older : List Instant) : Nat := Config.staleChoice draw % (older.length + 1)

/-- How many older instants the current port skips in its snapshot. -/
def State.skips (s : State) : Nat := skipped s.draws (s.older s.port)

/-- The snapshot the current port takes (20_memory.md R72, R81, 41_query_ops.md R144). Under STALE the one of port X is of one
earlier instant (R144, R207; DEDUCED), and that of P or C pairs the port's own counter with a value the other one has had
(R81 over R207's "of an earlier instant"; DESIGN CHOICE, notes/assumptions/17.md). -/
def State.given (s : State) : Instant :=
  match s.cfg.view with
  | .sc => s.now
  | .stale => ((s.older s.port).drop s.skips).headD s.now

/-- `occupied` on the snapshot the current port takes. -/
def State.givenOccupied (s : State) : Nat := s.given.occupied s.cfg

/-- The views once a port has skipped the first `k` of its older instants: it will never be given one of them again. -/
def Views.skip (v : Views) (k : Nat) : Port → Views
  | .producer => { v with pReadCounts := v.pReadCounts.drop k }
  | .consumer => { v with cWriteCounts := v.cWriteCounts.drop k }
  | .controller => { v with xInstants := v.xInstants.drop k }

/-- The state after the current port has taken its snapshot. Under SC nothing changes; under STALE the port's view moves
forward and a free choice is spent. No item of R20 changes; that the model's own `views` move with no commit, so that a
repeated query may answer of a later instant, is R81 read over R145 (DESIGN CHOICE, notes/assumptions/17.md). -/
def State.observe (s : State) : State :=
  match s.cfg.view with
  | .sc => s
  | .stale => { s with views := s.views.skip s.skips s.port, draws := s.draws + 1 }

/-- The views once `writeCount` has moved on: its old value stays one that C may be given, and the old instant one that X may
be (R81). -/
def State.viewsAfterCountedWrite (s : State) : Views :=
  match s.cfg.view with
  | .sc => s.views
  | .stale =>
    { s.views with
      cWriteCounts := s.views.cWriteCounts ++ [s.writeCount], xInstants := s.views.xInstants ++ [s.now] }

/-- The views once `readCount` has moved on: its old value stays one that P may be given, and the old instant one that X may
be (R81). -/
def State.viewsAfterCountedRead (s : State) : Views :=
  match s.cfg.view with
  | .sc => s.views
  | .stale =>
    { s.views with
      pReadCounts := s.views.pReadCounts ++ [s.readCount], xInstants := s.views.xInstants ++ [s.now] }

/-! ### The fields that INIT, FLUSH and reset clear -/

/-- The four fields become 0 and the capacity `capacity` (40_lifecycle_ops.md R120, R130). Every port sees that at once, under
STALE too: R123 and R131 say what a query answers right after the step, on any port and under either view, and no older value
of `writeCount`, `readCount` or `capacity` agrees with that. These guarantees limit what R81's sentence, taken alone, would let a
port be given (DEDUCED). Where they do not reach, for a port that looks only later and after a step out of contract, the model
does the same (DESIGN CHOICE, notes/assumptions/16.md). -/
def State.cleared (s : State) (capacity : Nat) : State :=
  { s with
    capacity := capacity, writeIndex := 0, readIndex := 0, writeCount := 0, readCount := 0, views := .fresh }

/-- Reset (70_reset_and_hazards.md R260): the block is as after power-on and what is in flight is abandoned without a
response; the parameters stay, and nothing else but the storage survives (10_state.md R41), so no older value that a port
could be given does either. The agents' inputs are no state of the block and stay, as do the notes on the agents and the count of free choices. The
responses become not valid (R33), so an agent whose `PUT` or `GET` stands between its query and its guarded command drops
the command: the spec does not say what it does (R104, R270 name `INIT` and `FLUSH` only; DESIGN CHOICE,
notes/assumptions/7.md and 13.md). -/
def State.applyReset (s : State) : State :=
  { State.resetWith s.cfg with
    storage := s.storage, draws := s.draws, reqs := s.reqs, checks := s.checks, events := s.events, port := s.port }

/-- The inputs once the next event has been taken. -/
def State.withEvents (s : State) (es : List Event) : State := { s with events := es }

/-! ### Model faults (60_exceptions.md R233) -/

/-- Go on, or end the run with a model fault. -/
def orFault (f : Option Fault) (t : State) : Result :=
  match f with
  | none => .next t
  | some e => .fault e

/-- `NoCapacity`: with `capacity == 0` there is no slot and `mod capacity` has no meaning (42_data_ops.md R175). -/
def State.capacityFault (s : State) : Option Fault := if s.capacity = 0 then some .noCapacity else none

/-- `StorageRange` for a slot `>= DEPTH` (20_memory.md R68). -/
def slotFault (cfg : Config) (slot : Nat) : Option Fault := if cfg.depth ≤ slot then some .storageRange else none

/-- The faults of a storage access that is the first micro-step of its operation: `NoCapacity`, else `StorageRange`. -/
def State.accessFault (s : State) (slot : Nat) : Option Fault := s.capacityFault <|> slotFault s.cfg slot

/-- `ExclusiveAccess`: `INIT` and `FLUSH` need both data ports idle (40_lifecycle_ops.md R124, R132). -/
def State.exclusiveFault (s : State) : Option Fault :=
  if s.inFlight .producer || s.inFlight .consumer then some .exclusiveAccess else none

end Sys2Proof.Machine
end

