-- ==== Sys2Proof/Machine/Data.lean ====
section
/-! DEFINITION. `WRITE` and `READ` (42_data_ops.md). Each is a sequence of micro-steps and the other port may act between
any two of them (20_memory.md R71), so the meaning of the operation is its NEXT micro-step, chosen by the phase of its
port. The operation ends with the micro-step that responds (R161, R171, R179). -/

namespace Sys2Proof.Machine

/-! ### The states the micro-steps lead to -/

/-- After a `WR0` that let the `WRITE` pass (R162). -/
def State.passedWR0 (s : State) (v : Byte) : State := { s with pChecked := true, pLatch := v }

/-- After `WR1`: `storage[writeIndex]` holds the byte (R160). -/
def State.afterWR1 (s : State) (v : Byte) : State :=
  { s with storage := s.storedAt s.writeIndex v, pPhase := .stored, pLatch := v, pChecked := false }

/-- After `WR2`: `writeCount` is incremented (R160). -/
def State.afterWR2 (s : State) : State :=
  { s with writeCount := incW s.cfg s.writeCount, views := s.viewsAfterCountedWrite, pPhase := .counted }

/-- After `WR3`: `writeIndex` is advanced and the port is idle (R160). The index stays below the capacity: 10_state.md R28 has
it "always", so the capacity here is the current one, under STALE too (notes/assumptions/16.md). -/
def State.afterWR3 (s : State) : State := { s with writeIndex := advIndex s.capacity s.writeIndex, pPhase := .idle }

/-- After an `RD0` that let the `READ` pass (R172). -/
def State.passedRD0 (s : State) : State := { s with cChecked := true }

/-- After `RD1`: the byte of `storage[readIndex]` is in the latch (R170). -/
def State.afterRD1 (s : State) : State :=
  { s with cLatch := s.byteAt s.readIndex, cPhase := .loaded, cChecked := false }

/-- After `RD2`: `readCount` is incremented (R170). -/
def State.afterRD2 (s : State) : State :=
  { s with readCount := incW s.cfg s.readCount, views := s.viewsAfterCountedRead, cPhase := .counted }

/-- After `RD3`: `readIndex` is advanced and the port is idle (R170); the capacity as in `WR3`. -/
def State.afterRD3 (s : State) : State := { s with readIndex := advIndex s.capacity s.readIndex, cPhase := .idle }

/-! ### The operations -/

/-- The hardened check `WR0` or `RD0` on one snapshot: the error, or on to the next micro-step with the state `passed` (R160,
R162, R170, R172). Past the check a capacity of 0 is `NoCapacity` (R175). -/
def openingCheck (refused : Bool) (err : Err) (passed s : State) : Result :=
  if refused then .next (s.observe.raise err) else orFault s.capacityFault passed

/-- `WRITE` (R160). Hardened, the check comes first, as a micro-step of its own (R281); on a reference block what `WR0`
tests of the capacity (R175) is one micro-step with `WR1` (notes/assumptions/4.md). -/
def execWrite (value : Byte) (s : State) : Result :=
  onLegalPort (.write value) s <|
    match s.pPhase with
    | .idle =>
      if s.cfg.hardened then
        if s.pChecked then orFault (slotFault s.cfg s.writeIndex) (s.afterWR1 value)
        else openingCheck (fullOf s.given.capacity s.givenOccupied) .full (s.observe.passedWR0 value) s
      else orFault (s.accessFault s.writeIndex) (s.afterWR1 value)
    | .stored => .next s.afterWR2
    | .counted => orFault s.capacityFault (s.afterWR3.respond .ok 0)

/-- `READ` (R170). Hardened, the check comes first, as a micro-step of its own (R281); on a reference block what `RD0` tests
of the capacity (R175) is one micro-step with `RD1` (notes/assumptions/4.md). -/
def execRead (s : State) : Result :=
  onLegalPort .read s <|
    match s.cPhase with
    | .idle =>
      if s.cfg.hardened then
        if s.cChecked then orFault (slotFault s.cfg s.readIndex) s.afterRD1
        else openingCheck (emptyOf s.givenOccupied) .empty s.observe.passedRD0 s
      else orFault (s.accessFault s.readIndex) s.afterRD1
    | .loaded => .next s.afterRD2
    | .counted => orFault s.capacityFault (s.afterRD3.respond .ok (byteValue s.cLatch))

end Sys2Proof.Machine
end

