-- ==== Sys2Proof/Machine/Lifecycle.lean ====
section
/-! DEFINITION. `INIT` and `FLUSH` (40_lifecycle_ops.md), each one atomic step (R125). -/

namespace Sys2Proof.Machine

/-- `INIT` (R120): the capacity is installed and the four fields become 0; the storage is not accessed. Hardened, an
operand outside `1 .. CAP_MAX` raises `InvalidCapacity` and changes nothing (R121); unchecked, the register takes
`operand[W-1:0]` whatever it is (R122). With a data operation in flight: `ExclusiveAccess` (R124). -/
def execInit (capacity : Nat) (s : State) : Result :=
  onLegalPort (.init capacity) s <|
    orFault s.exclusiveFault <|
      if s.cfg.hardened && invalidCapacity s.cfg capacity then s.raise .invalidCapacity
      else (s.cleared (capacityOperand s.cfg capacity)).respond .ok 0

/-- `FLUSH` (R130): the four fields become 0; the capacity and the storage stay. With a data operation in flight:
`ExclusiveAccess` (R132). -/
def execFlush (s : State) : Result :=
  onLegalPort .flush s <| orFault s.exclusiveFault <| (s.cleared s.capacity).respond .ok 0

end Sys2Proof.Machine
end

