-- ==== Sys2Proof/Machine/Query.lean ====
section
/-! DEFINITION. The four occupancy queries (41_query_ops.md): each one snapshot (R144), no state of the block changes
(R145), legal on every port. -/

namespace Sys2Proof.Machine

/-- The common form of a query: a value computed from one snapshot (R144), and the state after the snapshot. -/
def answerQuery (i : Instr) (value : Nat) (s : State) : Result := onLegalPort i s (.next (s.observe.respond .ok value))

/-- `ISEMPTY` (R140). -/
def execIsempty (s : State) : Result := answerQuery .isempty (boolValue (emptyOf s.givenOccupied)) s

/-- `ISFULL` (R141). Its snapshot includes `capacity` (R144). -/
def execIsfull (s : State) : Result := answerQuery .isfull (boolValue (fullOf s.given.capacity s.givenOccupied)) s

/-- `AVAILDATA` (R142). -/
def execAvaildata (s : State) : Result := answerQuery .availdata s.givenOccupied s

/-- `AVAILSPACE` (R143, R146). Its snapshot includes `capacity` (R144). -/
def execAvailspace (s : State) : Result := answerQuery .availspace (s.given.space s.cfg) s

end Sys2Proof.Machine
end

