-- ==== Sys2Proof/Machine/Dispatch.lean ====
section
/-! DEFINITION. One arm for each operation of spec/opcode_table.json. The command stands on the port `s.port`. -/

namespace Sys2Proof.Machine

def exec (i : Instr) (s : State) : Host.Outcome State Fault Refusal :=
  match i with
  | .init capacity => Sys2Proof.Machine.execInit capacity s
  | .isempty => Sys2Proof.Machine.execIsempty s
  | .isfull => Sys2Proof.Machine.execIsfull s
  | .availdata => Sys2Proof.Machine.execAvaildata s
  | .availspace => Sys2Proof.Machine.execAvailspace s
  | .write value => Sys2Proof.Machine.execWrite value s
  | .read => Sys2Proof.Machine.execRead s
  | .flush => Sys2Proof.Machine.execFlush s

end Sys2Proof.Machine
end

