-- ==== Sys2Proof/Machine/Fetch.lean ====
section
/-! DEFINITION. What a port does when it is given a turn: the next micro-step of the operation it is inside, or the next
command its agent presents (30_encoding.md R101), and how the agents' pseudo-operations are written down (R104). -/

namespace Sys2Proof.Machine

/-- What a turn of a port leads to. -/
inductive Fetched where
  /-- No command is presented: the port does nothing. -/
  | idle (s : State)
  /-- The port takes a micro-step of this operation. -/
  | run (i : Instr) (s : State)
  /-- The word presented is no command. -/
  | reject (r : Refusal)
  deriving DecidableEq, Repr

/-- The operation a port is inside. A `WRITE` carries the byte its latch holds (10_state.md R35). -/
def State.inFlightInstr (s : State) (p : Port) : Option Instr :=
  if s.inFlight p then
    match p with
    | .producer => some (.write s.pLatch)
    | .consumer => some .read
    | .controller => none
  else none

/-- The response `OK 0`: the answer of `ISFULL` or `ISEMPTY` that lets `PUT` or `GET` go on (R104). -/
def isOkZero : Option Response → Bool
  | some ⟨.ok, v⟩ => decide (v = 0)
  | _ => false

/-- The last response of a port was `OK 0`. Reset makes every response not valid (10_state.md R33), so a guarded request
whose query was answered before a reset is dropped (DESIGN CHOICE, notes/assumptions/7.md and 13.md). -/
def State.lastWasZero (s : State) (p : Port) : Bool := isOkZero (s.rsp.get p)

/-- The port has the turn. -/
def State.withTurn (s : State) (p : Port) : State := { s with port := p }

/-- The queries whose answer licenses a port's data operation: the occupancy checks of 00_scope.md R12
(43_arithmetic_and_properties.md R208). -/
def isCheckOn : Port → Instr → Bool
  | .producer, .isfull => true
  | .producer, .availspace => true
  | .consumer, .isempty => true
  | .consumer, .availdata => true
  | _, _ => false

/-- When the agent's last check was, once it has presented one more command. -/
def CheckAge.next (isCheck : Bool) (age : CheckAge) : CheckAge :=
  if isCheck then .latest
  else
    match age with
    | .never => .never
    | .earlier => .earlier
    | .latest => .earlier

/-- The port has the turn and accepts the operation of its agent's first request. -/
def State.accepting (s : State) (p : Port) (i : Instr) (rest : List Request) : State :=
  { s with
    port := p, reqs := s.reqs.set p rest, checks := s.checks.set p ((s.checks.get p).next (isCheckOn p i)) }

/-- The port has the turn and its agent drops its first request. -/
def State.dropping (s : State) (p : Port) (rest : List Request) : State := { s with port := p, reqs := s.reqs.set p rest }

/-- The command word of its agent's first request stands on the port. -/
def present (p : Port) (word : Nat) (rest : List Request) (s : State) : Fetched :=
  match decode s.cfg word with
  | .ok i => .run i (s.accepting p i rest)
  | .error _ => .reject (.wordTooWide word)

/-- The turn of port `p`. An operation in flight goes on; only an idle port accepts a new command (R101). -/
def fetch (p : Port) (s : State) : Fetched :=
  match s.inFlightInstr p with
  | some i => .run i (s.withTurn p)
  | none =>
    match s.reqs.get p with
    | [] => .idle (s.withTurn p)
    | .issue word _ :: rest => present p word rest s
    | .issueIfZero word :: rest => if s.lastWasZero p then present p word rest s else .idle (s.dropping p rest)

/-- `PUT v` on port P (R104): `ISFULL`, then `WRITE v` if it answered 0. -/
def putRequests (cfg : Config) (v : Byte) : List Request :=
  [.issue (encode cfg .isfull) false, .issueIfZero (encode cfg (.write v))]

/-- `GET` on port C (R104): `ISEMPTY`, then `READ` if it answered 0. -/
def getRequests (cfg : Config) : List Request :=
  [.issue (encode cfg .isempty) false, .issueIfZero (encode cfg .read)]

/-- A port on which the operation is legal (30_encoding.md R99), port X for the queries. -/
def homePort : Instr → Port
  | .init _ => .controller
  | .isempty => .controller
  | .isfull => .controller
  | .availdata => .controller
  | .availspace => .controller
  | .write _ => .producer
  | .read => .consumer
  | .flush => .controller

/-- The port on which `withFetchWord` presents a word. -/
def portForWord (cfg : Config) (word : Nat) : Port :=
  match decode cfg word with
  | .ok i => homePort i
  | .error _ => .controller

/-- The state with no operation in flight on a port, so that the port accepts a command. -/
def State.withIdlePort (s : State) : Port → State
  | .producer => { s with pPhase := .idle, pChecked := false }
  | .consumer => { s with cPhase := .idle, cChecked := false }
  | .controller => s

/-- The state in which a port's agent presents a word next and the port has the next turn. -/
def State.presenting (s : State) (p : Port) (word : Nat) : State :=
  { s.withIdlePort p with
    reqs := s.reqs.set p (.issue word false :: s.reqs.get p), events := .turn p :: s.events }

end Sys2Proof.Machine
end

