-- ==== Sys2Proof/Machine/Step.lean ====
section
/-! DEFINITION. One step of the machine: one micro-step of the port that has the turn, or a reset. -/

namespace Sys2Proof.Machine

/-- One step. With no event left, nothing happens: the block does not act on its own (10_state.md R34,
notes/assumptions/3.md). -/
def step (s : State) : Host.Outcome State Fault Refusal :=
  match s.events with
  | [] => .next s
  | .reset :: es => .next (s.withEvents es).applyReset
  | .turn p :: es =>
    match fetch p (s.withEvents es) with
    | .idle t => .next t
    | .run i t => exec i t
    | .reject r => .refused r

/-- The word presented as the very next command, on a port where its operation is legal: the agent's request, the
port idle, and the port's turn first. It stands for the agents' program, which is outside the block (10_state.md R34,
notes/assumptions/3.md). -/
def State.withFetchWord (s : State) (nbits w : Nat) : State :=
  s.presenting (portForWord s.cfg (w % 2 ^ nbits)) (w % 2 ^ nbits)

end Sys2Proof.Machine
end

