-- ==== Sys2Proof/Safety.lean ====
section
/-! DEFINITION. The terms in which runs of the block are spoken of: the invariant of every run, runs in contract
(00_scope.md R12), the abstract queue the block implements (43_arithmetic_and_properties.md R204), and the ends of
operations. -/

namespace Sys2Proof.Machine

/-! ### The invariant of every run -/

/-- Every listed address lies in the attached region (20_memory.md R60, R68). -/
def Memory.within (m : Memory) (base depth : Nat) : Prop := ∀ c ∈ m, base ≤ c.1 ∧ c.1 < base + depth

/-- A response the port can carry: the value fits its field, and an error carries 0 (30_encoding.md R94). -/
def responseFits (cfg : Config) (r : Response) : Prop := r.value < 2 ^ cfg.opw ∧ (r.err ≠ .ok → r.value = 0)

/-- What holds in every run, in and out of contract, in both modes and both views. -/
structure State.Inv (s : State) : Prop where
  cfg_wf : s.cfg.wf = true
  storage_wf : Memory.wf s.storage = true
  storage_within : s.storage.within s.cfg.storageBase s.cfg.depth
  capacity_lt : s.capacity < s.cfg.range
  writeCount_lt : s.writeCount < s.cfg.range
  readCount_lt : s.readCount < s.cfg.range
  /-- A hardened block never holds an illegal capacity (40_lifecycle_ops.md R121). -/
  capacity_legal : s.cfg.hardened = true → s.capacity ≤ capMax s.cfg
  writeIndex_lt : s.writeIndex < s.cfg.range
  readIndex_lt : s.readIndex < s.cfg.range
  /-- 10_state.md R28. -/
  indices_lt : s.capacity ≠ 0 → s.writeIndex < s.capacity ∧ s.readIndex < s.capacity
  /-- The CREATED condition (10_state.md R39, R43): nothing has been written or read and no operation is in flight. -/
  created : s.capacity = 0 → s.writeIndex = 0 ∧ s.readIndex = 0 ∧ s.writeCount = 0 ∧ s.readCount = 0 ∧
    s.views = .fresh ∧ s.inFlight .producer = false ∧ s.inFlight .consumer = false
  /-- The checks belong to the hardened operations, and are the first micro-step. -/
  pChecked_idle : s.pChecked = true → s.cfg.hardened = true ∧ s.pPhase = .idle
  cChecked_idle : s.cChecked = true → s.cfg.hardened = true ∧ s.cPhase = .idle
  /-- Under SC no port can be given an older value (20_memory.md R72). -/
  views_sc : s.cfg.view = .sc → s.views = .fresh
  responses_fit : ∀ p r, s.rsp.get p = some r → responseFits s.cfg r

/-! ### Runs in contract -/

/-- The slot the next store will go to once a counted `WRITE` has advanced its index (R200). -/
def State.nextWriteSlot (s : State) : Nat :=
  match s.pPhase with
  | .counted => advIndex s.capacity s.writeIndex
  | _ => s.writeIndex

/-- The slot the next load will come from once a counted `READ` has advanced its index (R200). -/
def State.nextReadSlot (s : State) : Nat :=
  match s.cPhase with
  | .counted => advIndex s.capacity s.readIndex
  | _ => s.readIndex

/-- The values of `readCount` that port P may be given, the current one last. -/
def State.readCountsForP (s : State) : List Nat := s.views.pReadCounts ++ [s.readCount]

/-- The values of `writeCount` that port C may be given, the current one last. -/
def State.writeCountsForC (s : State) : List Nat := s.views.cWriteCounts ++ [s.writeCount]

/-- Whichever of these it is given, port P sees room for one more element. -/
def State.roomForP (s : State) : Prop := ∀ r ∈ s.readCountsForP, occupiedOf s.cfg s.writeCount r < s.capacity

/-- Whichever of these it is given, port C sees an element to read. -/
def State.dataForC (s : State) : Prop := ∀ w ∈ s.writeCountsForC, 0 < occupiedOf s.cfg w s.readCount

/-- The queue is neither overrun nor underrun (10_state.md R30, 43_arithmetic_and_properties.md R203, R209). -/
structure State.QueueSound (s : State) : Prop where
  occupied_le : s.occupied ≤ s.capacity
  slots : s.capacity ≠ 0 → s.nextWriteSlot = (s.nextReadSlot + s.occupied) % s.capacity
  /-- A `WRITE` that is past its check and has not counted still has its room. -/
  room : s.pChecked = true ∨ s.pPhase = .stored → s.occupied < s.capacity
  /-- A `READ` that is past its check and has not counted still has its element. -/
  data : s.cChecked = true ∨ s.cPhase = .loaded → 0 < s.occupied
  stored_byte : s.pPhase = .stored → s.byteAt s.writeIndex = s.pLatch
  loaded_byte : s.cPhase = .loaded → s.byteAt s.readIndex = s.cLatch

/-- No data port can come to believe that it has more room or more data than it has (20_memory.md R73, R74, R81). -/
structure State.ViewsSafe (s : State) : Prop where
  /-- In the order P may be given them, the read counts show the queue ever emptier, never over full. -/
  seenByP : (s.readCountsForP.map (occupiedOf s.cfg s.writeCount)).Pairwise (· ≥ ·)
  seenByP_le : ∀ r ∈ s.readCountsForP, occupiedOf s.cfg s.writeCount r ≤ s.capacity
  /-- In the order C may be given them, the write counts show the queue ever fuller. -/
  seenByC : (s.writeCountsForC.map (occupiedOf s.cfg · s.readCount)).Pairwise (· ≤ ·)
  /-- Port X is given occupancies that the queue has had, so none above its capacity (decision D11). -/
  seenByX : ∀ e ∈ s.views.xInstants, e.capacity = s.capacity ∧ e.occupied s.cfg ≤ s.capacity
  /-- Port P sees the room of its `WRITE` that has not counted. -/
  write_room : s.pChecked = true ∨ s.pPhase = .stored → s.roomForP
  /-- Port C sees the element of its `READ` that has not counted. -/
  read_data : s.cChecked = true ∨ s.cPhase = .loaded → s.dataForC

/-- The word is the command of an operation with a property. -/
def commandIs (cfg : Config) (f : Instr → Bool) (word : Nat) : Bool :=
  match decode cfg word with
  | .ok i => f i
  | .error _ => false

/-- The operation is `WRITE`. -/
def isWrite : Instr → Bool
  | .write _ => true
  | _ => false

/-- The operation is `READ`. -/
def isRead : Instr → Bool
  | .read => true
  | _ => false

/-- The operation is `ISFULL`. -/
def isIsfull : Instr → Bool
  | .isfull => true
  | _ => false

/-- The operation is `ISEMPTY`. -/
def isIsempty : Instr → Bool
  | .isempty => true
  | _ => false

/-- Every data operation among an agent's requests is guarded by the query right before it, as `PUT` and `GET` are
(30_encoding.md R104). `checked`: the query has already been issued. -/
def guarded (cfg : Config) (op query : Instr → Bool) : Bool → List Request → Bool
  | _, [] => true
  | _, .issue a _ :: rest => !commandIs cfg op a && guarded cfg op query (commandIs cfg query a) rest
  | checked, .issueIfZero b :: rest =>
    (!commandIs cfg op b || checked) && guarded cfg op query false rest

/-- The producer obeys "callers MUST check `isFull()` first" (R104): it is at the start of a guarded sequence, or between
the check, which was its last command, and the `WRITE`, and then a check that answered 0 is still good
(43_arithmetic_and_properties.md R208). -/
def State.producerDisciplined (s : State) : Prop :=
  guarded s.cfg isWrite isIsfull false s.reqs.producer = true ∨
    (guarded s.cfg isWrite isIsfull true s.reqs.producer = true ∧ s.inFlight .producer = false ∧
      s.checks.producer = .latest ∧ (s.lastWasZero .producer = true → s.roomForP))

/-- The consumer checks `isEmpty()` before each `READ` (R104). -/
def State.consumerDisciplined (s : State) : Prop :=
  guarded s.cfg isRead isIsempty false s.reqs.consumer = true ∨
    (guarded s.cfg isRead isIsempty true s.reqs.consumer = true ∧ s.inFlight .consumer = false ∧
      s.checks.consumer = .latest ∧ (s.lastWasZero .consumer = true → s.dataForC))

/-- The command word of a request. -/
def Request.word : Request → Nat
  | .issue w _ => w
  | .issueIfZero w => w

/-- Every word an agent will present fits the command wires (30_encoding.md R92). -/
def State.requestsFit (s : State) : Prop := ∀ p, ∀ q ∈ s.reqs.get p, q.word < 2 ^ (3 + s.cfg.opw)

/-- What holds at every point of a run in contract, in either mode (R209): the invariant of every run, a sound queue, and a
capacity that the storage has room for. -/
structure State.Sound (s : State) : Prop where
  inv : s.Inv
  queue : s.QueueSound
  capacity_le_depth : s.capacity ≤ s.cfg.depth
  requests_fit : s.requestsFit

/-- A state of a run that R207 speaks of: the data operations are hardened, or guarded by their agents, so that every one is
licensed by a check that its own port has made. -/
structure State.Checked (s : State) : Prop extends s.Sound where
  views_safe : s.ViewsSafe
  agents : s.cfg.hardened = true ∨ (s.producerDisciplined ∧ s.consumerDisciplined)

/-- The data operation of a port. -/
def isDataOpOn : Port → Instr → Bool
  | .producer, i => isWrite i
  | .consumer, i => isRead i
  | .controller, _ => false

/-- Among the requests of port `p` is a data operation that relies on a check made before all of them: one said to rely on its
agent's last check, with no check before it. A guarded request relies on the request right before it, and a guarded check
may be dropped (DESIGN CHOICE, notes/assumptions/3.md). -/
def reliesOnEarlier (cfg : Config) (p : Port) : List Request → Bool
  | [] => false
  | .issue w relies :: rest =>
    (relies && commandIs cfg (isDataOpOn p) w) || (!commandIs cfg (isCheckOn p) w && reliesOnEarlier cfg p rest)
  | .issueIfZero _ :: rest => reliesOnEarlier cfg p rest

/-- The agent of port `p` is between an occupancy check and the `WRITE` or `READ` that relies on it (00_scope.md R12,
70_reset_and_hazards.md R270): it has made a check, and that operation is still to come. Its next request is guarded by the
last answer, that is a check's and is the `OK 0` that lets it through (R104); or a request still to come relies on the last
check. A next request that its guard lets through counts as a plain one for those after it. -/
def State.midSequence (s : State) (p : Port) : Bool :=
  match s.reqs.get p with
  | .issueIfZero w :: rest =>
    if s.lastWasZero p then
      (decide (s.checks.get p = .latest) && commandIs s.cfg (isDataOpOn p) w) ||
        (decide (s.checks.get p ≠ .never) && reliesOnEarlier s.cfg p (.issue w false :: rest))
    else decide (s.checks.get p ≠ .never) && reliesOnEarlier s.cfg p rest
  | reqs => decide (s.checks.get p ≠ .never) && reliesOnEarlier s.cfg p reqs

/-- Port `p` is quiescent (00_scope.md R12): no operation in flight, and its agent not between a check and the operation that
relies on it. -/
def State.quiescent (s : State) (p : Port) : Bool := !s.inFlight p && !s.midSequence p

/-- The operation a port will take its next micro-step of. -/
def State.nextCommand (s : State) (p : Port) : Option Instr :=
  match fetch p s with
  | .run i _ => some i
  | _ => none

/-- Issued now, the operation is in contract (00_scope.md R12). -/
def State.allows (s : State) : Instr → Prop
  | .write _ => s.fullFlag = false
  | .read => s.emptyFlag = false
  | .init c => s.quiescent .producer = true ∧ s.quiescent .consumer = true ∧ 1 ≤ c ∧ c ≤ capMax s.cfg
  | .flush => s.quiescent .producer = true ∧ s.quiescent .consumer = true
  | .isempty => True
  | .isfull => True
  | .availdata => True
  | .availspace => True

/-- The coming step is in contract (00_scope.md R12), hardened or not: a `WRITE` it issues is issued while `isFull` is false, a
`READ` while `isEmpty` is false, `INIT` and `FLUSH` with both data ports quiescent, `INIT` with a legal capacity. A command
that its port turns away with `IllegalPort` is none of these. -/
def State.inContract (s : State) : Prop :=
  ∀ p es, s.events = .turn p :: es → s.inFlight p = false →
    ∀ i, s.nextCommand p = some i → legalOn i p = true → s.allows i

/-- The next `n` steps are in contract (00_scope.md R12). -/
def runInContract : Nat → State → Prop
  | 0, _ => True
  | n + 1, s => s.inContract ∧ ∀ t, step s = .next t → runInContract n t

/-- The controller keeps its part of the contract in the coming step (00_scope.md R12): it flushes and initialises only
with both data ports quiescent, and with a legal capacity. -/
def State.controllerInContract (s : State) : Prop :=
  ∀ es, s.events = .turn .controller :: es →
    (∀ c, s.nextCommand .controller = some (.init c) → s.allows (.init c)) ∧
    (s.nextCommand .controller = some .flush → s.allows .flush)

/-! ### The abstract queue -/

/-- The logical content of the queue, oldest element first (43_arithmetic_and_properties.md R204). -/
def State.contents (s : State) : List Byte :=
  (List.range s.occupied).map fun k => s.byteAt ((s.nextReadSlot + k) % s.capacity)

/-- What a step does to the abstract queue (R207): the commit points of `WRITE` and `READ`, and the steps that empty
it. -/
inductive Commit where
  | nothing
  | push (b : Byte)
  | pop (b : Byte)
  | clear
  deriving DecidableEq, Repr

/-- A lifecycle command empties the queue, unless it is turned away (40_lifecycle_ops.md R121). -/
def lifecycleCommit (cfg : Config) : Option Instr → Commit
  | some (.init c) => if cfg.hardened && invalidCapacity cfg c then .nothing else .clear
  | some .flush => .clear
  | _ => .nothing

/-- The commit of the coming step: `WR2`, `RD2` (R207), `INIT`, `FLUSH` or reset. -/
def State.commit (s : State) : Commit :=
  match s.events with
  | [] => .nothing
  | .reset :: _ => .clear
  | .turn .producer :: _ =>
    match s.pPhase with
    | .stored => .push s.pLatch
    | _ => .nothing
  | .turn .consumer :: _ =>
    match s.cPhase with
    | .loaded => .pop s.cLatch
    | _ => .nothing
  | .turn .controller :: _ => lifecycleCommit s.cfg (s.nextCommand .controller)

/-- How a commit relates the queue before and after it: first in, first out. -/
def Commit.Takes : Commit → List Byte → List Byte → Prop
  | .nothing, q, q' => q' = q
  | .push b, q, q' => q' = q ++ [b]
  | .pop b, q, q' => q = b :: q'
  | .clear, _, q' => q' = []

/-- The bytes written in a run of `n` steps, in the order of their commits. -/
def written : Nat → State → List Byte
  | 0, _ => []
  | n + 1, s =>
    (match s.commit with
      | .push b => [b]
      | _ => []) ++
    (match step s with
      | .next t => written n t
      | _ => [])

/-- The bytes read in a run of `n` steps, in the order of their commits. -/
def readOut : Nat → State → List Byte
  | 0, _ => []
  | n + 1, s =>
    (match s.commit with
      | .pop b => [b]
      | _ => []) ++
    (match step s with
      | .next t => readOut n t
      | _ => [])

/-- No step of a run of `n` steps empties the queue by `INIT`, `FLUSH` or reset. -/
def neverCleared : Nat → State → Bool
  | 0, _ => true
  | n + 1, s =>
    decide (s.commit ≠ .clear) &&
      match step s with
      | .next t => neverCleared n t
      | _ => true

/-! ### The true numbers of operations -/

/-- `wt` writes and `rt` reads have committed since the last `INIT` or `FLUSH` (43_arithmetic_and_properties.md R200). -/
structure State.Tracks (s : State) (wt rt : Nat) : Prop where
  writeCount_eq : s.writeCount = wt % s.cfg.range
  readCount_eq : s.readCount = rt % s.cfg.range
  writeIndex_eq : s.capacity ≠ 0 → s.nextWriteSlot = wt % s.capacity
  readIndex_eq : s.capacity ≠ 0 → s.nextReadSlot = rt % s.capacity

/-- The true numbers after a step. -/
def Commit.count : Commit → Nat × Nat → Nat × Nat
  | .nothing, n => n
  | .push _, (wt, rt) => (wt + 1, rt)
  | .pop _, (wt, rt) => (wt, rt + 1)
  | .clear, _ => (0, 0)

/-! ### Whole operations -/

/-- The micro-steps of one operation one after the other, no other port between them, until it ends: at most `n` of them
(70_reset_and_hazards.md R280). -/
def finish : Nat → Instr → State → Result
  | 0, _, s => .next s
  | n + 1, i, s =>
    match exec i s with
    | .next t => if t.inFlight t.port then finish n i t else .next t
    | r => r

/-- The micro-step ends its operation with this response, and the port is idle again. -/
def endsWith (i : Instr) (s : State) (r : Response) : Prop :=
  ∃ t, exec i s = .next t ∧ t.rsp = s.rsp.set s.port (some r) ∧ t.inFlight s.port = false

end Sys2Proof.Machine
end

