-- ==== Sys2Proof/Certificates/Slice0/Obligations.lean ====
section
/-! DEFINITION. The statements for the provers, each one a rule of spec/ or a claim its sections make. `HARDENED`, `VIEW`, `W`,
`DEPTH` and `STORAGE_BASE` are fields of every state, so a statement about every state is one about every value of them. -/

open Sys2Proof Sys2Proof.Machine

/-! ### Command and response words (30_encoding.md) -/

/-- Words of 95_test_vectors.md section 2.6 and 2.1 decode to the operations they stand for. -/
def Obligations.ReferenceWordsDecode : Prop :=
  decode Config.reference 0x00B = .ok (.init 11) ∧ decode Config.reference 0x080 = .ok (.init 128) ∧
  decode Config.reference 0x1FF = .ok .isempty ∧ decode Config.reference 0x200 = .ok .isfull ∧
  decode Config.reference 0x300 = .ok .availdata ∧ decode Config.reference 0x400 = .ok .availspace ∧
  decode Config.reference 0x51A = .ok (.write 26) ∧ decode Config.reference 0x6FF = .ok .read ∧
  decode Config.reference 0x7A5 = .ok .flush

/-- R93 and R98, at every width: each of the eight codes with every operand, the capacity `INIT` takes of its operand, the
byte `WRITE` takes of it, and the zeros an encoder emits where the operand is ignored. -/
def Obligations.OperationCodesAtEveryWidth : Prop :=
  ∀ (cfg : Config) (x : Nat), x < 2 ^ cfg.opw →
    decode cfg (0 * 2 ^ cfg.opw + x) = .ok (.init x) ∧ capacityOperand cfg x = x % 2 ^ cfg.w ∧
    decode cfg (1 * 2 ^ cfg.opw + x) = .ok .isempty ∧
    decode cfg (2 * 2 ^ cfg.opw + x) = .ok .isfull ∧
    decode cfg (3 * 2 ^ cfg.opw + x) = .ok .availdata ∧
    decode cfg (4 * 2 ^ cfg.opw + x) = .ok .availspace ∧
    decode cfg (5 * 2 ^ cfg.opw + x) = .ok (.write (BitVec.ofNat 8 (x % 2 ^ 8))) ∧
    decode cfg (6 * 2 ^ cfg.opw + x) = .ok .read ∧
    decode cfg (7 * 2 ^ cfg.opw + x) = .ok .flush ∧
    encode cfg .isempty = 1 * 2 ^ cfg.opw ∧ encode cfg .isfull = 2 * 2 ^ cfg.opw ∧
    encode cfg .availdata = 3 * 2 ^ cfg.opw ∧ encode cfg .availspace = 4 * 2 ^ cfg.opw ∧
    encode cfg .read = 6 * 2 ^ cfg.opw ∧ encode cfg .flush = 7 * 2 ^ cfg.opw

/-- Decoding the word of a well-formed operation gives it back, at every width. -/
def Obligations.DecodeOfEncodeIsTheOperation : Prop :=
  ∀ (cfg : Config) (i : Instr), i.wf cfg = true → decode cfg (encode cfg i) = .ok i

/-- There is no illegal operation code (R100): every word of the `3 + OPW` bits of R92 decodes to a well-formed operation, whose
code is the word's top three bits. A wider word is none (the model's reading, notes/assumptions/12.md). -/
def Obligations.EveryCommandWordDecodes : Prop :=
  ∀ (cfg : Config) (word : Nat),
    (word < 2 ^ (3 + cfg.opw) →
      ∃ i, decode cfg word = .ok i ∧ i.wf cfg = true ∧ i.opcode = word / 2 ^ cfg.opw) ∧
    (2 ^ (3 + cfg.opw) ≤ word → decode cfg word = .error .wordTooWide)

/-- A response fits its `3 + OPW` bits and is read back from its word (R94); the codes are those of R95, and codes 5, 6 and 7 are
no response. -/
def Obligations.ResponsesAreReadBackFromTheirWords : Prop :=
  ∀ (cfg : Config) (v : Nat), v < 2 ^ cfg.opw →
    (∀ e : Err, encodeResponse cfg ⟨e, v⟩ < 2 ^ (3 + cfg.opw) ∧
      decodeResponse cfg (encodeResponse cfg ⟨e, v⟩) = some ⟨e, v⟩) ∧
    encodeResponse cfg ⟨.ok, v⟩ = v ∧
    encodeResponse cfg ⟨.full, 0⟩ = 1 * 2 ^ cfg.opw ∧
    encodeResponse cfg ⟨.empty, 0⟩ = 2 * 2 ^ cfg.opw ∧
    encodeResponse cfg ⟨.invalidCapacity, 0⟩ = 3 * 2 ^ cfg.opw ∧
    encodeResponse cfg ⟨.illegalPort, 0⟩ = 4 * 2 ^ cfg.opw ∧
    ∀ code, 5 ≤ code → code ≤ 7 → decodeResponse cfg (code * 2 ^ cfg.opw + v) = none

/-! ### INIT and FLUSH (40_lifecycle_ops.md) -/

/-- R120: the word of `INIT`, its effect on port X with the data ports idle (and, hardened, a legal capacity), the status
flags after it, and its two errors. Nothing else of the block changes, so no byte of storage does. On every port and under
either view a query answers then as R123 says: no port is given an older value any more (notes/assumptions/16.md). -/
def Obligations.InitInstallsTheCapacity : Prop :=
  ∀ (s : State) (c : Nat),
    encode s.cfg (.init c) = c ∧
    (s.port = .controller → s.inFlight .producer = false → s.inFlight .consumer = false →
      ((s.cfg.hardened = true → 1 ≤ c ∧ c ≤ 2 ^ s.cfg.w - 1 ∧ c ≤ s.cfg.depth) →
        ∃ t, exec (.init c) s = .next t ∧
          t = { s with
            capacity := c % 2 ^ s.cfg.w, writeIndex := 0, readIndex := 0, writeCount := 0, readCount := 0
            rsp := s.rsp.set .controller (some ⟨.ok, 0⟩), views := ⟨[], [], []⟩ } ∧
          t.emptyFlag = true ∧ (t.fullFlag = true ↔ c % 2 ^ s.cfg.w = 0) ∧ t.availData = 0 ∧
          t.availSpace = c % 2 ^ s.cfg.w ∧
          ∀ p : Port,
            (∃ u, exec .isempty { t with port := p } = .next u ∧ u.rsp.get p = some ⟨.ok, 1⟩) ∧
            (∃ u, exec .isfull { t with port := p } = .next u ∧
              u.rsp.get p = some ⟨.ok, if c % 2 ^ s.cfg.w = 0 then 1 else 0⟩) ∧
            (∃ u, exec .availdata { t with port := p } = .next u ∧ u.rsp.get p = some ⟨.ok, 0⟩) ∧
            ∃ u, exec .availspace { t with port := p } = .next u ∧ u.rsp.get p = some ⟨.ok, c % 2 ^ s.cfg.w⟩) ∧
      (s.cfg.hardened = true → ¬(1 ≤ c ∧ c ≤ 2 ^ s.cfg.w - 1 ∧ c ≤ s.cfg.depth) →
        exec (.init c) s = .next { s with rsp := s.rsp.set .controller (some ⟨.invalidCapacity, 0⟩) })) ∧
    (s.port ≠ .controller →
      exec (.init c) s = .next { s with rsp := s.rsp.set s.port (some ⟨.illegalPort, 0⟩) })

/-- R222: a micro-step ends its operation with `InvalidCapacity` exactly when it is an `INIT` on a hardened block whose operand
is outside `1 .. CAP_MAX`; no value is recorded. R222 does not name the data ports: that both are idle is the model's choice to
look for `ExclusiveAccess` first (notes/assumptions/9.md), the gap after a check counting as in flight
(notes/assumptions/4.md). -/
def Obligations.InvalidCapacityRaisedExactly : Prop :=
  ∀ (i : Instr) (s : State) (v : Nat),
    endsWith i s ⟨.invalidCapacity, v⟩ ↔
      ∃ c, i = .init c ∧ s.port = .controller ∧ s.inFlight .producer = false ∧ s.inFlight .consumer = false ∧
        s.cfg.hardened = true ∧ ¬(1 ≤ c ∧ c ≤ min (2 ^ s.cfg.w - 1) s.cfg.depth) ∧ v = 0

/-- R130: the word of `FLUSH`, its effect on port X with the data ports idle, the status flags after it, and its one error. The
capacity and every byte of storage stay. On every port and under either view a query answers then as R131 says: no port is given
an older value any more (notes/assumptions/16.md). -/
def Obligations.FlushClearsTheFourFields : Prop :=
  ∀ (s : State),
    encode s.cfg .flush = 7 * 2 ^ s.cfg.opw ∧
    (s.port = .controller → s.inFlight .producer = false → s.inFlight .consumer = false →
      ∃ t, exec .flush s = .next t ∧
        t = { s with
          writeIndex := 0, readIndex := 0, writeCount := 0, readCount := 0
          rsp := s.rsp.set .controller (some ⟨.ok, 0⟩), views := ⟨[], [], []⟩ } ∧
        t.emptyFlag = true ∧ (t.fullFlag = true ↔ s.capacity = 0) ∧ t.availData = 0 ∧
        t.availSpace = s.capacity % 2 ^ s.cfg.w ∧
        ∀ p : Port,
          (∃ u, exec .isempty { t with port := p } = .next u ∧ u.rsp.get p = some ⟨.ok, 1⟩) ∧
          (∃ u, exec .isfull { t with port := p } = .next u ∧
            u.rsp.get p = some ⟨.ok, if s.capacity = 0 then 1 else 0⟩) ∧
          (∃ u, exec .availdata { t with port := p } = .next u ∧ u.rsp.get p = some ⟨.ok, 0⟩) ∧
          ∃ u, exec .availspace { t with port := p } = .next u ∧
            u.rsp.get p = some ⟨.ok, s.capacity % 2 ^ s.cfg.w⟩) ∧
    (s.port ≠ .controller →
      exec .flush s = .next { s with rsp := s.rsp.set s.port (some ⟨.illegalPort, 0⟩) })

/-- With a data operation in flight, `INIT` and `FLUSH` have no meaning (R124, R132, R233). That the gap between `WR0` and `WR1`
(`RD0` and `RD1`) counts as in flight is the model's reading (notes/assumptions/4.md). -/
def Obligations.LifecycleNeedsExclusiveAccess : Prop :=
  ∀ (s : State) (c : Nat), s.port = .controller → (s.inFlight .producer = true ∨ s.inFlight .consumer = true) →
    exec (.init c) s = .fault .exclusiveAccess ∧ exec .flush s = .fault .exclusiveAccess

/-- "A second `FLUSH` immediately after a first changes nothing at all" (R134), and an `INIT` to the same capacity does to the
fields what `FLUSH` does (R127). So it is with what the ports may be given late after them: nothing (notes/assumptions/16.md). -/
def Obligations.FlushTwiceIsFlushOnce : Prop :=
  ∀ (s t : State), s.port = .controller → s.capacity < 2 ^ s.cfg.w → exec .flush s = .next t →
    exec .flush t = .next t ∧
    ((s.cfg.hardened = true → 1 ≤ s.capacity ∧ s.capacity ≤ s.cfg.depth) → exec (.init s.capacity) s = .next t)

/-! ### Queries (41_query_ops.md) -/

/-- R140: `ISEMPTY` answers on every port and in every state: 1 exactly when the counters of the snapshot it is given are equal as
`W`-bit values. Under `VIEW = SC` these are the current ones and nothing but the response changes. -/
def Obligations.IsemptyAnswers : Prop :=
  ∀ (s : State),
    encode s.cfg .isempty = 1 * 2 ^ s.cfg.opw ∧
    exec .isempty s = .next { s.observe with
      rsp := s.rsp.set s.port (some ⟨.ok,
        if s.given.writeCount % 2 ^ s.cfg.w = s.given.readCount % 2 ^ s.cfg.w then 1 else 0⟩) } ∧
    (s.cfg.view = .sc → s.observe = s ∧ s.given = ⟨s.writeCount, s.readCount, s.capacity⟩)

/-- R141: `ISFULL` answers on every port and in every state: 1 exactly when the occupancy, the difference of the counters modulo
`2^W`, is at least the capacity, as unsigned numbers, on one snapshot of all three. -/
def Obligations.IsfullAnswers : Prop :=
  ∀ (s : State),
    encode s.cfg .isfull = 2 * 2 ^ s.cfg.opw ∧
    exec .isfull s = .next { s.observe with
      rsp := s.rsp.set s.port (some ⟨.ok,
        if (s.given.capacity : Int) ≤ ((s.given.writeCount : Int) - s.given.readCount) % 2 ^ s.cfg.w then 1 else 0⟩) } ∧
    (s.cfg.view = .sc → s.observe = s ∧ s.given = ⟨s.writeCount, s.readCount, s.capacity⟩)

/-- R142: `AVAILDATA` answers on every port and in every state with the occupancy. -/
def Obligations.AvaildataAnswers : Prop :=
  ∀ (s : State),
    encode s.cfg .availdata = 3 * 2 ^ s.cfg.opw ∧
    exec .availdata s = .next { s.observe with
      rsp := s.rsp.set s.port (some ⟨.ok,
        (((s.given.writeCount : Int) - s.given.readCount) % 2 ^ s.cfg.w).toNat⟩) } ∧
    (s.cfg.view = .sc → s.observe = s ∧ s.given = ⟨s.writeCount, s.readCount, s.capacity⟩)

/-- R143: `AVAILSPACE` answers on every port and in every state with the capacity less the occupancy, modulo `2^W`. (Out of
contract the modular value is the spec's own decision D15, R146, notes/assumptions/11.md.) -/
def Obligations.AvailspaceAnswers : Prop :=
  ∀ (s : State),
    encode s.cfg .availspace = 4 * 2 ^ s.cfg.opw ∧
    exec .availspace s = .next { s.observe with
      rsp := s.rsp.set s.port (some ⟨.ok,
        (((s.given.capacity : Int) - ((s.given.writeCount : Int) - s.given.readCount) % 2 ^ s.cfg.w) % 2 ^ s.cfg.w).toNat⟩) } ∧
    (s.cfg.view = .sc → s.observe = s ∧ s.given = ⟨s.writeCount, s.readCount, s.capacity⟩)

/-- R145: no query changes any of the six items of R20 or any in-flight state, on any port, under either view; each one answers
`OK`. -/
def Obligations.QueriesChangeNothing : Prop :=
  ∀ (s : State) (i : Instr), i = .isempty ∨ i = .isfull ∨ i = .availdata ∨ i = .availspace →
    ∃ t v, exec i s = .next t ∧ t.rsp = s.rsp.set s.port (some ⟨.ok, v⟩) ∧
      t.capacity = s.capacity ∧ t.storage = s.storage ∧ t.writeIndex = s.writeIndex ∧ t.readIndex = s.readIndex ∧
      t.writeCount = s.writeCount ∧ t.readCount = s.readCount ∧
      t.pPhase = s.pPhase ∧ t.pLatch = s.pLatch ∧ t.pChecked = s.pChecked ∧
      t.cPhase = s.cPhase ∧ t.cLatch = s.cLatch ∧ t.cChecked = s.cChecked ∧ t.cfg = s.cfg

/-- What a snapshot gives (R72, R81, R144): under SC the current instant, and nothing changes; under STALE one of the instants the
port may still be given or the current one, after which no older one can be given to it. Which one is a free choice
(notes/assumptions/6.md) among all of them. Port P sees its own count, the capacity and perhaps a late read count, port C its own
count, the capacity and perhaps a late write count (notes/assumptions/16.md, 17.md and 19.md); port X sees one whole instant
(notes/assumptions/17.md). Only the model's own `views` and `draws` change. -/
def Obligations.SnapshotsGiveAllowedValues : Prop :=
  ∀ (s : State),
    (s.cfg.view = .sc → s.observe = s ∧ s.given = ⟨s.writeCount, s.readCount, s.capacity⟩) ∧
    (s.cfg.view = .stale →
      (s.port = .producer →
        ∃ k, k = Config.staleChoice s.draws % (s.views.pReadCounts.length + 1) ∧
          s.observe =
            { s with views := { s.views with pReadCounts := s.views.pReadCounts.drop k }, draws := s.draws + 1 } ∧
          ∃ r, s.given = ⟨s.writeCount, r, s.capacity⟩ ∧
            (s.observe.views.pReadCounts ++ [s.readCount]).head? = some r) ∧
      (s.port = .consumer →
        ∃ k, k = Config.staleChoice s.draws % (s.views.cWriteCounts.length + 1) ∧
          s.observe =
            { s with views := { s.views with cWriteCounts := s.views.cWriteCounts.drop k }, draws := s.draws + 1 } ∧
          ∃ w, s.given = ⟨w, s.readCount, s.capacity⟩ ∧
            (s.observe.views.cWriteCounts ++ [s.writeCount]).head? = some w) ∧
      (s.port = .controller →
        ∃ k, k = Config.staleChoice s.draws % (s.views.xInstants.length + 1) ∧
          s.observe = { s with views := { s.views with xInstants := s.views.xInstants.drop k }, draws := s.draws + 1 } ∧
          (s.observe.views.xInstants ++ [Instant.mk s.writeCount s.readCount s.capacity]).head? = some s.given))

/-- R147: available data and available space add up to the capacity, modulo `2^W` in every state, and as numbers while the
occupancy does not exceed the capacity. -/
def Obligations.DataAndSpaceAddUpToCapacity : Prop :=
  ∀ (s : State),
    (s.availData + s.availSpace) % 2 ^ s.cfg.w = s.capacity % 2 ^ s.cfg.w ∧
    (s.capacity < 2 ^ s.cfg.w → s.occupied ≤ s.capacity → s.availData + s.availSpace = s.capacity)

/-! ### WRITE and READ (42_data_ops.md) -/

/-- The micro-steps of `WRITE` on port P (R160, R161), each with its whole effect: the hardened check that passes, the store, the
count and the index. That the hardened check is a micro-step of its own is the model's reading (notes/assumptions/4.md). With the
count, under STALE, the old write count stays one that port C may be given and the old instant one that port X may be (R81). -/
def Obligations.WriteMicroSteps : Prop :=
  ∀ (s : State) (v : Byte), s.port = .producer →
    (s.pPhase = .idle → s.cfg.hardened = true → s.pChecked = false → s.givenOccupied < s.given.capacity → s.capacity ≠ 0 →
      exec (.write v) s = .next { s.observe with pChecked := true, pLatch := v }) ∧
    (s.pPhase = .idle → s.cfg.hardened = true → s.pChecked = true → s.writeIndex < s.cfg.depth →
      exec (.write v) s = .next { s with
        storage := Memory.writeByte s.storage (s.cfg.storageBase + s.writeIndex) v
        pPhase := .stored, pLatch := v, pChecked := false }) ∧
    (s.pPhase = .idle → s.cfg.hardened = false → s.capacity ≠ 0 → s.writeIndex < s.cfg.depth →
      exec (.write v) s = .next { s with
        storage := Memory.writeByte s.storage (s.cfg.storageBase + s.writeIndex) v
        pPhase := .stored, pLatch := v, pChecked := false }) ∧
    (s.pPhase = .stored →
      exec (.write v) s = .next { s with
        writeCount := (s.writeCount + 1) % 2 ^ s.cfg.w, pPhase := .counted
        views := if s.cfg.view = .sc then s.views else { s.views with
          cWriteCounts := s.views.cWriteCounts ++ [s.writeCount]
          xInstants := s.views.xInstants ++ [⟨s.writeCount, s.readCount, s.capacity⟩] } }) ∧
    (s.pPhase = .counted → s.capacity ≠ 0 →
      exec (.write v) s = .next { s with
        writeIndex := (s.writeIndex + 1) % s.capacity, pPhase := .idle
        rsp := s.rsp.set .producer (some ⟨.ok, 0⟩) })

/-- The micro-steps of `READ` on port C (R170, R171), each with its whole effect: the hardened check that passes, the load, the
count and the index with the byte in the response. That the hardened check is a micro-step of its own is the model's
reading (notes/assumptions/4.md). With the count, under STALE, the old read count stays one that port P may be given and the old
instant one that port X may be (R81). -/
def Obligations.ReadMicroSteps : Prop :=
  ∀ (s : State), s.port = .consumer →
    (s.cPhase = .idle → s.cfg.hardened = true → s.cChecked = false → s.givenOccupied ≠ 0 → s.capacity ≠ 0 →
      exec .read s = .next { s.observe with cChecked := true }) ∧
    (s.cPhase = .idle → s.cfg.hardened = true → s.cChecked = true → s.readIndex < s.cfg.depth →
      exec .read s = .next { s with
        cLatch := Memory.readByte s.storage (s.cfg.storageBase + s.readIndex), cPhase := .loaded, cChecked := false }) ∧
    (s.cPhase = .idle → s.cfg.hardened = false → s.capacity ≠ 0 → s.readIndex < s.cfg.depth →
      exec .read s = .next { s with
        cLatch := Memory.readByte s.storage (s.cfg.storageBase + s.readIndex), cPhase := .loaded, cChecked := false }) ∧
    (s.cPhase = .loaded →
      exec .read s = .next { s with
        readCount := (s.readCount + 1) % 2 ^ s.cfg.w, cPhase := .counted
        views := if s.cfg.view = .sc then s.views else { s.views with
          pReadCounts := s.views.pReadCounts ++ [s.readCount]
          xInstants := s.views.xInstants ++ [⟨s.writeCount, s.readCount, s.capacity⟩] } }) ∧
    (s.cPhase = .counted → s.capacity ≠ 0 →
      exec .read s = .next { s with
        readIndex := (s.readIndex + 1) % s.capacity, cPhase := .idle
        rsp := s.rsp.set .consumer (some ⟨.ok, s.cLatch.toNat⟩) })

/-- R160 as a whole under SC: a `WRITE` that runs from start to end, alone, stores its byte at slot `writeIndex`, increments
`writeCount`, advances `writeIndex` and answers `OK`. On a reference block this needs no room; on a hardened one the queue is
not full. Every other byte of memory and every other field of the block stays. -/
def Obligations.WriteAloneStoresCountsAndAdvances : Prop :=
  ∀ (s : State) (v : Byte), s.port = .producer → s.cfg.view = .sc → s.inFlight .producer = false →
    s.capacity ≠ 0 → s.writeIndex < s.cfg.depth → (s.cfg.hardened = true → s.occupied < s.capacity) →
    ∃ t, finish 4 (.write v) s = .next t ∧
      t.byteAt s.writeIndex = v ∧
      (∀ a, a ≠ slotAddress s.cfg s.writeIndex → Memory.readByte t.storage a = Memory.readByte s.storage a) ∧
      t = { s with
        storage := t.storage, writeCount := (s.writeCount + 1) % 2 ^ s.cfg.w
        writeIndex := (s.writeIndex + 1) % s.capacity, pLatch := v
        rsp := s.rsp.set .producer (some ⟨.ok, 0⟩) }

/-- R170 as a whole under SC: a `READ` that runs from start to end, alone, answers with the byte of slot `readIndex`, increments
`readCount` and advances `readIndex`. On a reference block this needs no data; on a hardened one the queue is not empty. The
memory and every other field of the block stay. -/
def Obligations.ReadAloneLoadsCountsAndAdvances : Prop :=
  ∀ (s : State), s.port = .consumer → s.cfg.view = .sc → s.inFlight .consumer = false →
    s.capacity ≠ 0 → s.readIndex < s.cfg.depth → (s.cfg.hardened = true → s.occupied ≠ 0) →
    finish 4 .read s = .next { s with
      readCount := (s.readCount + 1) % 2 ^ s.cfg.w, readIndex := (s.readIndex + 1) % s.capacity
      cLatch := s.byteAt s.readIndex
      rsp := s.rsp.set .consumer (some ⟨.ok, (s.byteAt s.readIndex).toNat⟩) }

/-- R164: whatever its micro-step, `WRITE` "mutates only writer-owned state (`writeIndex`, `writeCount`, and the single storage slot)
— never touches `readIndex`/`readCount`". The slot is the one `writeIndex` names. -/
def Obligations.WriteMutatesOnlyWriterOwnedState : Prop :=
  ∀ (s t : State) (v : Byte), exec (.write v) s = .next t →
    t.readIndex = s.readIndex ∧ t.readCount = s.readCount ∧ t.capacity = s.capacity ∧
    t.cPhase = s.cPhase ∧ t.cLatch = s.cLatch ∧ t.cChecked = s.cChecked ∧ t.cfg = s.cfg ∧
    (∀ p, p ≠ s.port → t.rsp.get p = s.rsp.get p) ∧
    ∀ a, a ≠ slotAddress s.cfg s.writeIndex → Memory.readByte t.storage a = Memory.readByte s.storage a

/-- R174: whatever its micro-step, `READ` mutates only `readIndex`, `readCount` and the port's own latch; it never writes `writeIndex`,
`writeCount`, `capacity` or any storage slot. -/
def Obligations.ReadMutatesOnlyReaderOwnedState : Prop :=
  ∀ (s t : State), exec .read s = .next t →
    t.writeIndex = s.writeIndex ∧ t.writeCount = s.writeCount ∧ t.capacity = s.capacity ∧
    t.pPhase = s.pPhase ∧ t.pLatch = s.pLatch ∧ t.pChecked = s.pChecked ∧ t.cfg = s.cfg ∧
    (∀ p, p ≠ s.port → t.rsp.get p = s.rsp.get p) ∧
    ∀ a, Memory.readByte t.storage a = Memory.readByte s.storage a

/-- R223: a micro-step ends its operation with `Full` exactly when it is the check of a hardened `WRITE` on a snapshot with
`occupied >= capacity`; no value is recorded. -/
def Obligations.FullRaisedExactly : Prop :=
  ∀ (i : Instr) (s : State) (v : Nat),
    endsWith i s ⟨.full, v⟩ ↔
      ∃ b, i = .write b ∧ s.port = .producer ∧ s.cfg.hardened = true ∧ s.inFlight .producer = false ∧
        s.given.capacity ≤ s.givenOccupied ∧ v = 0

/-- R224: a micro-step ends its operation with `Empty` exactly when it is the check of a hardened `READ` on a snapshot with
`occupied == 0`; the value field is 0. -/
def Obligations.EmptyRaisedExactly : Prop :=
  ∀ (i : Instr) (s : State) (v : Nat),
    endsWith i s ⟨.empty, v⟩ ↔
      i = .read ∧ s.port = .consumer ∧ s.cfg.hardened = true ∧ s.inFlight .consumer = false ∧
        s.givenOccupied = 0 ∧ v = 0

/-- R99 and R232: the table of the ports on which an operation is legal. Where it is not, the operation ends at once with
`IllegalPort` and no state change; where it is, it never ends so. -/
def Obligations.IllegalPortExactlyByTheTable : Prop :=
  ∀ (i : Instr) (s : State),
    (((∃ c, i = .init c) ∨ i = .flush) ∧ s.port ≠ .controller ∨ (∃ b, i = .write b) ∧ s.port ≠ .producer ∨
        i = .read ∧ s.port ≠ .consumer →
      exec i s = .next { s with rsp := s.rsp.set s.port (some ⟨.illegalPort, 0⟩) }) ∧
    (¬(((∃ c, i = .init c) ∨ i = .flush) ∧ s.port ≠ .controller ∨ (∃ b, i = .write b) ∧ s.port ≠ .producer ∨
        i = .read ∧ s.port ≠ .consumer) →
      ∀ v, ¬endsWith i s ⟨.illegalPort, v⟩)

/-- R227: an operation that ends with an error leaves all six state items and both ports' in-flight state exactly as they were,
and the value of its response is 0. -/
def Obligations.ErrorsChangeNothing : Prop :=
  ∀ (i : Instr) (s t : State) (e : Err) (v : Nat), e ≠ .ok → exec i s = .next t →
    t.rsp = s.rsp.set s.port (some ⟨e, v⟩) → t.inFlight s.port = false →
    v = 0 ∧ t.capacity = s.capacity ∧ t.storage = s.storage ∧ t.writeIndex = s.writeIndex ∧
      t.readIndex = s.readIndex ∧ t.writeCount = s.writeCount ∧ t.readCount = s.readCount ∧
      t.pPhase = s.pPhase ∧ t.pLatch = s.pLatch ∧ t.pChecked = s.pChecked ∧
      t.cPhase = s.cPhase ∧ t.cLatch = s.cLatch ∧ t.cChecked = s.cChecked

/-- R163: a `WRITE` on the full queue of a reference block replaces the oldest unread byte; the occupancy becomes `capacity + 1`
modulo `2^W`, so the queue still reports full (unless that wraps to 0) and `2^W - 1` free slots. -/
def Obligations.UncheckedWriteOnFullOverwritesTheOldest : Prop :=
  ∀ (s : State) (v : Byte), s.port = .producer → s.cfg.hardened = false → s.inFlight .producer = false →
    s.capacity ≠ 0 → s.capacity < 2 ^ s.cfg.w → s.writeIndex < s.cfg.depth →
    s.occupied = s.capacity → s.writeIndex = s.readIndex →
    ∃ t, finish 4 (.write v) s = .next t ∧ t.rsp.get .producer = some ⟨.ok, 0⟩ ∧
      t.byteAt t.readIndex = v ∧ t.occupied = (s.capacity + 1) % 2 ^ s.cfg.w ∧
      (s.capacity + 1 < 2 ^ s.cfg.w → t.fullFlag = true) ∧ t.availSpace = 2 ^ s.cfg.w - 1

/-- R173: a `READ` on the empty queue of a reference block returns the content of slot `readIndex` and still counts: the block then
reports `2^W - 1` elements, full and not empty. -/
def Obligations.UncheckedReadOnEmptyReturnsTheStaleByte : Prop :=
  ∀ (s : State), s.port = .consumer → s.cfg.hardened = false → s.inFlight .consumer = false →
    1 ≤ s.cfg.w → s.capacity ≠ 0 → s.capacity < 2 ^ s.cfg.w → s.readIndex < s.cfg.depth →
    s.occupied = 0 →
    ∃ t, finish 4 .read s = .next t ∧ t.rsp.get .consumer = some ⟨.ok, (s.byteAt s.readIndex).toNat⟩ ∧
      t.occupied = 2 ^ s.cfg.w - 1 ∧ t.emptyFlag = false ∧ t.fullFlag = true ∧
      t.availData = 2 ^ s.cfg.w - 1 ∧ t.availSpace = (s.capacity + 1) % 2 ^ s.cfg.w

/-- What a data operation has no meaning for (R68, R175, R233): no capacity, in each micro-step that reads it, and a slot beyond
the storage. (Where both hold, the order of the two is the model's, notes/assumptions/9.md.) -/
def Obligations.DataOperationsFaultWithoutASlot : Prop :=
  ∀ (s : State) (v : Byte),
    (s.port = .producer →
      (s.pPhase = .idle → s.cfg.hardened = false → s.capacity = 0 → exec (.write v) s = .fault .noCapacity) ∧
      (s.pPhase = .counted → s.capacity = 0 → exec (.write v) s = .fault .noCapacity) ∧
      (s.pPhase = .idle → s.cfg.hardened = false → s.capacity ≠ 0 → s.cfg.depth ≤ s.writeIndex →
        exec (.write v) s = .fault .storageRange) ∧
      (s.pPhase = .idle → s.cfg.hardened = true → s.pChecked = true → s.cfg.depth ≤ s.writeIndex →
        exec (.write v) s = .fault .storageRange)) ∧
    (s.port = .consumer →
      (s.cPhase = .idle → s.cfg.hardened = false → s.capacity = 0 → exec .read s = .fault .noCapacity) ∧
      (s.cPhase = .idle → s.cfg.hardened = true → s.cChecked = false → s.givenOccupied ≠ 0 →
        s.capacity = 0 → exec .read s = .fault .noCapacity) ∧
      (s.cPhase = .counted → s.capacity = 0 → exec .read s = .fault .noCapacity) ∧
      (s.cPhase = .idle → s.cfg.hardened = false → s.capacity ≠ 0 → s.cfg.depth ≤ s.readIndex →
        exec .read s = .fault .storageRange) ∧
      (s.cPhase = .idle → s.cfg.hardened = true → s.cChecked = true → s.cfg.depth ≤ s.readIndex →
        exec .read s = .fault .storageRange))

/-- R280, R282: an operation that starts on an idle port, or is in flight there, ends after at most four micro-steps of its own
port: the port is idle again and holds a response. -/
def Obligations.OperationsEndWithinFourMicroSteps : Prop :=
  ∀ (i : Instr) (s t : State), s.Inv → (s.inFlight s.port = false ∨ s.inFlightInstr s.port = some i) →
    finish 4 i s = .next t → t.port = s.port ∧ t.inFlight s.port = false ∧ t.rsp.get s.port ≠ none

/-! ### The step of the machine (20_memory.md, 60_exceptions.md, 70_reset_and_hazards.md) -/

/-- A step runs the decoded command: an idle port that has the turn takes its agent's first word, and a port inside an operation
goes on with it (R101). The word a guarded request carries is taken if the last answer was `OK 0` (R104). The note on the agent's
checks is the model's own (notes/assumptions/3.md). -/
def Obligations.StepRunsTheDecodedCommand : Prop :=
  ∀ (s : State) (p : Port) (es : List Event) (i : Instr), s.events = .turn p :: es →
    ∃ age, age = (if p = .producer ∧ (i = .isfull ∨ i = .availspace) ∨ p = .consumer ∧ (i = .isempty ∨ i = .availdata) then
        CheckAge.latest
      else if s.checks.get p = .never then .never else .earlier) ∧
    (∀ word relies rest, s.inFlight p = false → s.reqs.get p = .issue word relies :: rest → decode s.cfg word = .ok i →
      step s = exec i { s with events := es, port := p, reqs := s.reqs.set p rest, checks := s.checks.set p age }) ∧
    (∀ word rest, s.inFlight p = false → s.reqs.get p = .issueIfZero word :: rest →
      s.rsp.get p = some ⟨.ok, 0⟩ → decode s.cfg word = .ok i →
      step s = exec i { s with events := es, port := p, reqs := s.reqs.set p rest, checks := s.checks.set p age }) ∧
    (p = .producer → s.inFlight p = true →
      step s = exec (.write s.pLatch) { s with events := es, port := p }) ∧
    (p = .consumer → s.inFlight p = true → step s = exec .read { s with events := es, port := p })

/-- A step in which no command runs: nothing is scheduled, the port's agent presents nothing, the guard of `PUT` or `GET` is not met
(R104), or the word is wider than the wires (the model's conventions, notes/assumptions/3.md, 12.md and 13.md). -/
def Obligations.StepsWithoutACommand : Prop :=
  ∀ (s : State), (s.events = [] → step s = .next s) ∧
    ∀ (p : Port) (es : List Event), s.events = .turn p :: es → s.inFlight p = false →
      (s.reqs.get p = [] → step s = .next { s with events := es, port := p }) ∧
      (∀ word rest, s.reqs.get p = .issueIfZero word :: rest → s.rsp.get p ≠ some ⟨.ok, 0⟩ →
        step s = .next { s with events := es, port := p, reqs := s.reqs.set p rest }) ∧
      (∀ word relies rest, s.reqs.get p = .issue word relies :: rest → 2 ^ (3 + s.cfg.opw) ≤ word →
        step s = .refused (.wordTooWide word))

/-- R260: reset at any point leaves the capacity, the four fields and both phases as after power-on, abandons what is in flight
without a response, and touches neither the storage nor the parameters. Every port then sees the current values, as nothing but
the storage survives (R41). The latches' value and the fate of the old responses are the model's reading
(notes/assumptions/7.md and 8.md), and so is that a `PUT` or `GET` which stands between its query and its guarded command then
drops the command (notes/assumptions/7.md and 13.md). -/
def Obligations.ResetEventRestoresTheCreatedState : Prop :=
  ∀ (s : State) (es : List Event), s.events = .reset :: es →
    ∃ t, step s = .next t ∧
      t = { s with
        capacity := 0, writeIndex := 0, readIndex := 0, writeCount := 0, readCount := 0
        pPhase := .idle, pLatch := 0, pChecked := false, cPhase := .idle, cLatch := 0, cChecked := false
        rsp := ⟨none, none, none⟩, views := ⟨[], [], []⟩, events := es } ∧
      ∀ (p : Port) (es' : List Event) (word : Nat) (rest : List Request),
        es = .turn p :: es' → s.reqs.get p = .issueIfZero word :: rest →
          step t = .next { t with events := es', port := p, reqs := t.reqs.set p rest }

/-- R43: the values reset leaves, for every choice of the parameters: the registers, the phases and the four status outputs. -/
def Obligations.ResetValues : Prop :=
  ∀ cfg : Config,
    (State.resetWith cfg).capacity = 0 ∧ (State.resetWith cfg).writeIndex = 0 ∧
    (State.resetWith cfg).readIndex = 0 ∧ (State.resetWith cfg).writeCount = 0 ∧
    (State.resetWith cfg).readCount = 0 ∧ (State.resetWith cfg).pPhase = .idle ∧
    (State.resetWith cfg).cPhase = .idle ∧ (State.resetWith cfg).emptyFlag = true ∧
    (State.resetWith cfg).fullFlag = true ∧ (State.resetWith cfg).availData = 0 ∧
    (State.resetWith cfg).availSpace = 0 ∧ (∀ p, (State.resetWith cfg).rsp.get p = none) ∧
    State.reset = State.resetWith Config.reference

/-- The status outputs are functions of the registers (R29, R31, R32), and the debug outputs are the registers (R40); a port is
ready exactly when no operation is in flight on it (R101); the response word of each port is that of its last operation
(R33, R94), none while the port has none. Under SC each status output is what the corresponding query would return (R32); that
it follows the current registers under STALE is the model's choice (notes/assumptions/18.md). -/
def Obligations.OutputsFollowTheRegisters : Prop :=
  ∀ (s : State),
    (s.outputs.empty = true ↔ ((s.writeCount : Int) - s.readCount) % 2 ^ s.cfg.w = 0) ∧
    (s.outputs.full = true ↔ (s.capacity : Int) ≤ ((s.writeCount : Int) - s.readCount) % 2 ^ s.cfg.w) ∧
    (s.outputs.availData : Int) = ((s.writeCount : Int) - s.readCount) % 2 ^ s.cfg.w ∧
    (s.outputs.availSpace : Int) = ((s.capacity : Int) - s.outputs.availData) % 2 ^ s.cfg.w ∧
    s.outputs.dbgCapacity = s.capacity ∧ s.outputs.dbgWriteIndex = s.writeIndex ∧
    s.outputs.dbgReadIndex = s.readIndex ∧ s.outputs.dbgWriteCount = s.writeCount ∧
    s.outputs.dbgReadCount = s.readCount ∧ (∀ p, s.outputs.cmdReady.get p = !s.inFlight p) ∧
    (∀ p, (s.rsp.get p = none → s.outputs.rsp.get p = none) ∧
      ∀ e v, s.rsp.get p = some ⟨e, v⟩ → s.outputs.rsp.get p = some (e.code * 2 ^ s.cfg.opw + v)) ∧
    (s.cfg.view = .sc →
      exec .isempty s = .next { s with rsp := s.rsp.set s.port (some ⟨.ok, if s.outputs.empty then 1 else 0⟩) } ∧
      exec .isfull s = .next { s with rsp := s.rsp.set s.port (some ⟨.ok, if s.outputs.full then 1 else 0⟩) } ∧
      exec .availdata s = .next { s with rsp := s.rsp.set s.port (some ⟨.ok, s.outputs.availData⟩) } ∧
      exec .availspace s = .next { s with rsp := s.rsp.set s.port (some ⟨.ok, s.outputs.availSpace⟩) })

/-- R69, R61: the machine changes a byte of memory in one kind of step only: port P's turn, its `WRITE` not yet stored, and the byte
at the slot `writeIndex` names. Reset, `INIT`, `FLUSH`, `READ` and the queries change none. -/
def Obligations.MemoryChangesOnlyWhenWriteStores : Prop :=
  ∀ (s t : State) (a : Nat), step s = .next t → Memory.readByte t.storage a ≠ Memory.readByte s.storage a →
    (∃ es, s.events = .turn .producer :: es) ∧ s.pPhase = .idle ∧ a = slotAddress s.cfg s.writeIndex ∧
      t.pPhase = .stored ∧ Memory.readByte t.storage a = t.pLatch

/-- R21, R126, R260: only reset and `INIT` change the capacity; no step changes a parameter (R33). -/
def Obligations.OnlyInitAndResetChangeTheCapacity : Prop :=
  ∀ (s t : State), step s = .next t →
    t.cfg = s.cfg ∧
    (t.capacity ≠ s.capacity →
      (∃ es, s.events = .reset :: es ∧ t.capacity = 0) ∨
      ∃ es c, s.events = .turn .controller :: es ∧ s.nextCommand .controller = some (.init c) ∧
        t.capacity = c % 2 ^ s.cfg.w)

/-- R27: the partition of the fields. A step of port P leaves the consumer's fields and `capacity`; a step of port C leaves the
producer's, every byte and `capacity`; a step of port X that is no `INIT` and no `FLUSH` leaves all six items. -/
def Obligations.PortsWriteOnlyWhatTheyOwn : Prop :=
  ∀ (s t : State) (es : List Event), step s = .next t →
    (s.events = .turn .producer :: es →
      t.readIndex = s.readIndex ∧ t.readCount = s.readCount ∧ t.capacity = s.capacity ∧ t.cPhase = s.cPhase ∧
      t.cLatch = s.cLatch ∧ t.cChecked = s.cChecked) ∧
    (s.events = .turn .consumer :: es →
      t.writeIndex = s.writeIndex ∧ t.writeCount = s.writeCount ∧ t.capacity = s.capacity ∧
      t.storage = s.storage ∧ t.pPhase = s.pPhase ∧ t.pLatch = s.pLatch ∧ t.pChecked = s.pChecked) ∧
    (s.events = .turn .controller :: es →
      t.storage = s.storage ∧ t.pPhase = s.pPhase ∧ t.pLatch = s.pLatch ∧ t.pChecked = s.pChecked ∧
      t.cPhase = s.cPhase ∧ t.cLatch = s.cLatch ∧ t.cChecked = s.cChecked ∧
      ((∀ c, s.nextCommand .controller ≠ some (.init c)) → s.nextCommand .controller ≠ some .flush →
        t.capacity = s.capacity ∧ t.writeIndex = s.writeIndex ∧ t.readIndex = s.readIndex ∧
        t.writeCount = s.writeCount ∧ t.readCount = s.readCount))

/-- R104: two turns of an idle port P whose agent runs `PUT v`, under SC. The first answers `ISFULL` and changes nothing of the block;
the second starts `WRITE v` if the answer was 0 and does nothing if it was 1. -/
def Obligations.PutWritesOnlyWhenNotFull : Prop :=
  ∀ (s : State) (v : Byte) (es : List Event) (rest : List Request), s.cfg.view = .sc →
    s.inFlight .producer = false → s.events = .turn .producer :: .turn .producer :: es →
    s.reqs.producer = putRequests s.cfg v ++ rest →
    ∃ t, step s = .next t ∧
      t = { s with
        events := .turn .producer :: es, port := .producer
        reqs := s.reqs.set .producer ((putRequests s.cfg v).tail ++ rest), checks := s.checks.set .producer .latest
        rsp := s.rsp.set .producer (some ⟨.ok, boolValue s.fullFlag⟩) } ∧
      (s.fullFlag = true → step t = .next { t with events := es, reqs := s.reqs.set .producer rest }) ∧
      (s.fullFlag = false → step t = exec (.write v) { t with
        events := es, reqs := s.reqs.set .producer rest, checks := s.checks.set .producer .earlier })

/-- R104: two turns of an idle port C whose agent runs `GET`, under SC. The first answers `ISEMPTY` and changes nothing of the block;
the second starts `READ` if the answer was 0 and does nothing if it was 1. -/
def Obligations.GetReadsOnlyWhenNotEmpty : Prop :=
  ∀ (s : State) (es : List Event) (rest : List Request), s.cfg.view = .sc →
    s.inFlight .consumer = false → s.events = .turn .consumer :: .turn .consumer :: es →
    s.reqs.consumer = getRequests s.cfg ++ rest →
    ∃ t, step s = .next t ∧
      t = { s with
        events := .turn .consumer :: es, port := .consumer
        reqs := s.reqs.set .consumer ((getRequests s.cfg).tail ++ rest), checks := s.checks.set .consumer .latest
        rsp := s.rsp.set .consumer (some ⟨.ok, boolValue s.emptyFlag⟩) } ∧
      (s.emptyFlag = true → step t = .next { t with events := es, reqs := s.reqs.set .consumer rest }) ∧
      (s.emptyFlag = false → step t = exec .read { t with
        events := es, reqs := s.reqs.set .consumer rest, checks := s.checks.set .consumer .earlier })

/-! ### Arithmetic and storage laws (43_arithmetic_and_properties.md) -/

/-- R191: the counter increment, and its silent wrap. -/
def Obligations.CounterIncrementWraps : Prop :=
  ∀ (cfg : Config) (x : Nat),
    incW cfg x = (x + 1) % 2 ^ cfg.w ∧ incW cfg (2 ^ cfg.w - 1) = 0 ∧ (x + 1 < 2 ^ cfg.w → incW cfg x = x + 1) ∧
    (cfg.w = 8 → incW cfg 254 = 255 ∧ incW cfg 255 = 0)

/-- R192: both forms of the index advance; below a capacity that fits `W` bits the sum never overflows them; a capacity of 1
keeps the index at 0. -/
def Obligations.IndexAdvanceWrapsAtCapacity : Prop :=
  ∀ (cfg : Config) (c i : Nat), i < c → c ≤ 2 ^ cfg.w - 1 →
    advIndex c i = (i + 1) % c ∧ advIndex c i = (if i + 1 = c then 0 else i + 1) ∧ i + 1 ≤ 2 ^ cfg.w - 1 ∧
    advIndex c i < c ∧ advIndex 1 0 = 0

/-- R193: modular subtraction, in its two cases and against the integer difference. -/
def Obligations.ModularSubtraction : Prop :=
  ∀ (cfg : Config) (a b : Nat), a < 2 ^ cfg.w → b < 2 ^ cfg.w →
    (subW cfg a b : Int) = ((a : Int) - b) % 2 ^ cfg.w ∧ subW cfg a b < 2 ^ cfg.w ∧
    (b ≤ a → subW cfg a b = a - b) ∧ (a < b → subW cfg a b = a + 2 ^ cfg.w - b) ∧
    (∀ s : State, s.occupied = subW s.cfg s.writeCount s.readCount ∧
      s.availSpace = subW s.cfg s.capacity s.occupied) ∧
    (cfg.w = 8 → subW cfg 5 5 = 0 ∧ subW cfg 7 5 = 2 ∧ subW cfg 0 255 = 1 ∧ subW cfg 2 250 = 8 ∧
      subW cfg 0 1 = 255 ∧ subW cfg 255 0 = 255)

/-- The storage primitives of R10: a store is read back, leaves every other address alone, and keeps the canonical form of the
memory (the form is the model's own, notes/assumptions/5.md). -/
def Obligations.StoreIsReadBackAndKeepsTheForm : Prop :=
  ∀ (m : Memory) (a b : Nat) (v : Byte),
    Memory.readByte (Memory.writeByte m a v) a = v ∧
    (b ≠ a → Memory.readByte (Memory.writeByte m a v) b = Memory.readByte m b) ∧
    (Memory.wf m = true → Memory.wf (Memory.writeByte m a v) = true)

/-! ### Invariants of every run -/

/-- Every step keeps the invariant of every run (R21, R28, R31, R33, R94, R121): in and out of contract, in both modes and both
views. -/
def Obligations.EveryStepKeepsTheInvariant : Prop :=
  ∀ s t : State, s.Inv → step s = .next t → t.Inv

/-- The state after reset meets the invariant, for every choice of the parameters that R6 admits. -/
def Obligations.ResetMeetsTheInvariant : Prop :=
  State.reset.Inv ∧ ∀ cfg : Config, cfg.wf = true → (State.resetWith cfg).Inv

/-- R200: the counters and the indices follow the true numbers of operations, in and out of contract: a step that commits a
`WRITE` adds one to the true number of writes, one that commits a `READ` to that of reads, and `INIT`, `FLUSH` and reset
start again. -/
def Obligations.CountersAndIndicesTrackTheOperations : Prop :=
  ∀ (s t : State) (wt rt : Nat), s.Inv → s.Tracks wt rt → step s = .next t →
    t.Tracks (s.commit.count (wt, rt)).1 (s.commit.count (wt, rt)).2

/-- R195 and R196: the occupancy is the true unread count modulo `2^W`, so it is exact while that count is in `0 .. 2^W - 1`,
however often the counters have wrapped. -/
def Obligations.OccupancyIsTheUnreadCountModuloRange : Prop :=
  ∀ (s : State) (wt rt : Nat), s.Tracks wt rt →
    (s.occupied : Int) = ((wt : Int) - rt) % 2 ^ s.cfg.w ∧
    (rt ≤ wt → wt - rt ≤ 2 ^ s.cfg.w - 1 → s.occupied = wt - rt)

/-- R203: the two slots coincide exactly when the capacity divides the unread count; so index equality cannot tell an empty
queue from a full one. -/
def Obligations.SlotsCoincideWhenCapacityDividesTheCount : Prop :=
  ∀ (s : State) (n rt : Nat), s.capacity ≠ 0 → s.Tracks (rt + n) rt →
    (s.nextWriteSlot = s.nextReadSlot ↔ s.capacity ∣ n)

/-! ### Runs in contract, and the abstract queue -/

/-- R30, R209: on a hardened block every step that has a meaning keeps the run safe, whatever the agents do and whichever
view: the occupancy never exceeds the capacity. (Under STALE no older value outlives an `INIT` or `FLUSH`,
notes/assumptions/16.md.) -/
def Obligations.HardenedStepsStayInContract : Prop :=
  ∀ s t : State, s.Checked → s.cfg.hardened = true → step s = .next t → t.Checked ∧ t.occupied ≤ t.capacity

/-- R12, R209: a run in contract reaches no model fault, and at each point of it the occupancy does not exceed the capacity and the
indices are below it, hardened or not. So does a run whose data operations are hardened or guarded by their agents (R104, R207),
while the controller keeps its part of the contract. (Under STALE no older value outlives an `INIT` or `FLUSH`,
notes/assumptions/16.md.) -/
def Obligations.RunsInContractMeetNoFault : Prop :=
  (∀ (n : Nat) (s : State), s.Sound → runInContract n s →
    ∃ t, Host.Core.run Sys2Proof.core n s = .next t ∧ t.Sound ∧ t.occupied ≤ t.capacity ∧
      (t.capacity ≠ 0 → t.writeIndex < t.capacity ∧ t.readIndex < t.capacity)) ∧
  ∀ s : State, s.Checked → s.controllerInContract → ∃ t, step s = .next t ∧ t.Checked

/-- R104: "A program in which every `WRITE` comes from a `PUT` and every `READ` from a `GET` is in contract with respect to the
full and empty preconditions": each of its steps is in contract while the controller's are. (Under STALE no older value
outlives an `INIT` or `FLUSH`, notes/assumptions/16.md.) -/
def Obligations.GuardedStepsAreInContract : Prop :=
  ∀ s : State, s.Checked → s.producerDisciplined → s.consumerDisciplined → s.controllerInContract → s.inContract

/-- The state after reset is one of a run in contract, for every choice of the parameters that R6 admits. -/
def Obligations.ResetIsInContract : Prop :=
  State.reset.Checked ∧ ∀ cfg : Config, cfg.wf = true → (State.resetWith cfg).Checked

/-- R204, R207: in contract the block is a first-in first-out queue of bytes. Its logical content, read off the registers and the
storage, changes in the committing steps only: `WR2` appends the byte written, `RD2` takes the oldest byte and it is the one
returned, `INIT`, `FLUSH` and reset empty it; and its length is the occupancy. A step counts if it is in contract (R12), or if
its data operations are hardened or guarded (R207) while the controller keeps its part. -/
def Obligations.StepRefinesTheAbstractQueue : Prop :=
  ∀ s t : State, (s.Sound ∧ s.inContract ∨ s.Checked ∧ s.controllerInContract) → step s = .next t →
    s.commit.Takes s.contents t.contents ∧ t.contents.length = t.occupied

/-- R198: in every run in contract in which nothing empties the queue, the bytes read are the bytes that were in it followed by the
bytes written, in order, up to those still in it; and so in every run of a hardened block. -/
def Obligations.RunsAreFirstInFirstOut : Prop :=
  ∀ (n : Nat) (s t : State), (s.Sound ∧ runInContract n s ∨ s.Checked ∧ s.cfg.hardened = true) →
    Host.Core.run Sys2Proof.core n s = .next t →
    neverCleared n s = true → s.contents ++ written n s = readOut n s ++ t.contents

/-- R81: an older view is safe in contract, as "each can only refuse an operation that would have been allowed". A snapshot on port P
that shows room is given only when there is room, and shows no more space than there is; one on port C shows no more data than
there is; and one on port X no more than the capacity (decision D11). (No older value outlives an `INIT` or `FLUSH`,
notes/assumptions/16.md. Where no check of the port's own precedes its operations it does not hold, notes/assumptions/19.md.) -/
def Obligations.LateViewsOnlyRefuse : Prop :=
  ∀ s : State, s.Checked →
    (s.port = .producer →
      (s.givenOccupied < s.given.capacity → s.occupied < s.capacity) ∧ s.given.space s.cfg ≤ s.availSpace) ∧
    (s.port = .consumer → s.givenOccupied ≤ s.occupied) ∧
    (s.port = .controller → s.givenOccupied ≤ s.capacity)

/-- R208: between two operations of port P the occupancy can only fall, and between two operations of port C it can only grow. -/
def Obligations.OtherPortCannotRevokeALicence : Prop :=
  ∀ (s t : State) (es : List Event), s.Sound → step s = .next t →
    (s.events = .turn .consumer :: es → t.occupied ≤ s.occupied) ∧
    (s.events = .turn .producer :: es → s.occupied ≤ t.occupied)

/-- R177: in contract the micro-steps of a `WRITE` and a `READ` that are both in flight commute: port P first or port C first, the
states differ in nothing but whose turn came last. (Under STALE what port X may be given late holds the instant in between the
two commits, and that is another one.) -/
def Obligations.InFlightMicroStepsCommute : Prop :=
  ∀ (s : State) (es : List Event), s.Sound → s.inFlight .producer = true → s.inFlight .consumer = true →
    ∃ t xs, Host.Core.run Sys2Proof.core 2 { s with events := .turn .producer :: .turn .consumer :: es } = .next t ∧
      Host.Core.run Sys2Proof.core 2 { s with events := .turn .consumer :: .turn .producer :: es } =
        .next { t with port := .producer, views := { t.views with xInstants := xs } } ∧
      (s.cfg.view = .sc → xs = t.views.xInstants)

/-- R177, U17: out of contract, on a reference block, a `WRITE` and a `READ` that touch the same slot race: the byte loaded is the new
one if the store comes first and the old one if the load does. Both are runs. -/
def Obligations.SameSlotRaceAdmitsBothBytes : Prop :=
  ∀ (s : State) (v : Byte), s.cfg.hardened = false → s.inFlight .producer = false → s.inFlight .consumer = false →
    s.capacity ≠ 0 → s.writeIndex < s.cfg.depth → s.readIndex = s.writeIndex →
    (∃ t u, exec (.write v) { s with port := .producer } = .next t ∧
      exec .read { t with port := .consumer } = .next u ∧ u.cLatch = v) ∧
    (∃ t u, exec .read { s with port := .consumer } = .next t ∧
      exec (.write v) { t with port := .producer } = .next u ∧ u.cLatch = s.byteAt s.readIndex)
end

