-- ==== Sys2Proof/Laws/Arithmetic.lean ====
section
/-! SUPPORT. The laws of the block's arithmetic (43_arithmetic_and_properties.md section 1), for every width `W`. -/

namespace Sys2Proof

theorem Config.range_pos (cfg : Config) : 0 < cfg.range := Nat.two_pow_pos cfg.w

theorem Config.range_le_opw (cfg : Config) : cfg.range ≤ 2 ^ cfg.opw :=
  Nat.pow_le_pow_right (by decide) (Nat.le_max_left _ _)

theorem Config.byte_le_opw (cfg : Config) : 2 ^ 8 ≤ 2 ^ cfg.opw :=
  Nat.pow_le_pow_right (by decide) (Nat.le_max_right _ _)

namespace Machine

variable (cfg : Config)

theorem incW_lt (x : Nat) : incW cfg x < cfg.range := Nat.mod_lt _ cfg.range_pos

theorem subW_lt (a b : Nat) : subW cfg a b < cfg.range := Nat.mod_lt _ cfg.range_pos

theorem advIndex_lt {c i : Nat} (h : c ≠ 0) : advIndex c i < c := Nat.mod_lt _ (Nat.pos_of_ne_zero h)

/-- The subtraction as R193 writes it, on integers. -/
theorem subW_cast (a b : Nat) : (subW cfg a b : Int) = ((a : Int) - b) % cfg.range := by
  have hb : b % cfg.range < cfg.range := Nat.mod_lt _ cfg.range_pos
  unfold subW
  rw [Int.natCast_mod, Int.natCast_add, Int.ofNat_sub hb.le, Int.natCast_mod,
    show (a : Int) + ((cfg.range : Int) - (b : Int) % cfg.range) = ((a : Int) - (b : Int) % cfg.range) + cfg.range by ring,
    Int.add_emod_right, Int.sub_emod, Int.emod_emod_of_dvd _ (dvd_refl _), ← Int.sub_emod]

/-- A difference is the number that added to the subtrahend gives the minuend, modulo `2^W`. -/
theorem subW_unique {a b n : Nat} (hn : n < cfg.range) (h : a % cfg.range = (b + n) % cfg.range) :
    subW cfg a b = n := by
  have hc := subW_cast cfg a b
  have h' : ((a : Int) - b) % cfg.range = (n : Int) % cfg.range := by
    apply Int.ModEq.sub_right (b : Int) (a := (a : Int)) (b := (b : Int) + n) (n := (cfg.range : Int)) _ |>.trans
    · simp [Int.ModEq]
    · unfold Int.ModEq; exact_mod_cast h
  rw [h', Int.emod_eq_of_lt (by omega) (by exact_mod_cast hn)] at hc
  exact_mod_cast hc

/-- The difference added to the subtrahend gives the minuend, modulo `2^W`. -/
theorem add_subW (a b : Nat) : (b + subW cfg a b) % cfg.range = a % cfg.range := by
  have h : (((b + subW cfg a b : Nat) : Int)) % cfg.range = (a : Int) % cfg.range := by
    rw [Int.natCast_add, subW_cast, Int.add_emod, Int.emod_emod_of_dvd _ (dvd_refl _), ← Int.add_emod]
    congr 1; ring
  exact_mod_cast h

@[simp] theorem subW_self (a : Nat) : subW cfg a a = 0 :=
  subW_unique cfg cfg.range_pos (by simp)

theorem subW_zero (a : Nat) (h : a < cfg.range) : subW cfg a 0 = a :=
  subW_unique cfg h (by simp)

/-- `EMPTY` is equality of the counters (R194). -/
theorem subW_eq_zero_iff (a b : Nat) : subW cfg a b = 0 ↔ a % cfg.range = b % cfg.range := by
  constructor
  · intro h
    have := add_subW cfg a b
    rw [h] at this
    exact this.symm
  · intro h
    exact subW_unique cfg cfg.range_pos (by simpa using h)

/-- Counting the minuend up adds one to the difference, unless it wraps. -/
theorem subW_inc_left {a b : Nat} (h : subW cfg a b + 1 < cfg.range) :
    subW cfg (incW cfg a) b = subW cfg a b + 1 := by
  apply subW_unique cfg h
  rw [incW, Nat.mod_mod, ← Nat.add_assoc, Nat.add_mod, ← add_subW cfg a b, ← Nat.add_mod]

/-- Counting the subtrahend up takes one from the difference, unless it is 0. -/
theorem subW_inc_right {a b : Nat} (h : 0 < subW cfg a b) :
    subW cfg a (incW cfg b) = subW cfg a b - 1 := by
  have hlt := subW_lt cfg a b
  apply subW_unique cfg (by omega)
  rw [← add_subW cfg a b, incW, Nat.mod_add_mod]
  congr 1; omega

/-- Counting the minuend up, wrap included. -/
theorem subW_inc_left_mod (a b : Nat) : subW cfg (incW cfg a) b = incW cfg (subW cfg a b) := by
  apply subW_unique cfg (incW_lt cfg _)
  rw [incW, incW, Nat.mod_mod, Nat.add_mod_mod, ← Nat.add_assoc, Nat.add_mod, ← add_subW cfg a b, ← Nat.add_mod]

/-- Both forms of the index advance agree on every index below the capacity (R192, 42_data_ops.md R165). -/
theorem advIndex_eq {c i : Nat} (h : i < c) : advIndex c i = if i + 1 = c then 0 else i + 1 := by
  unfold advIndex
  split
  · next e => rw [e, Nat.mod_self]
  · exact Nat.mod_eq_of_lt (by omega)

@[simp] theorem advIndex_mod (c i : Nat) : advIndex c (i % c) = (i + 1) % c := Nat.mod_add_mod i c 1

/-- Two offsets below the capacity lead from one slot to the same slot only if they are equal. -/
theorem slot_offset_inj {c r i j : Nat} (hi : i < c) (hj : j < c) (h : (r + i) % c = (r + j) % c) : i = j := by
  have : i % c = j % c := Nat.ModEq.add_left_cancel' r h
  rwa [Nat.mod_eq_of_lt hi, Nat.mod_eq_of_lt hj] at this

/-- `invalid(c)` is `not (1 <= c <= CAP_MAX)` (40_lifecycle_ops.md R121). -/
theorem invalidCapacity_iff (c : Nat) : invalidCapacity cfg c = true ↔ ¬(1 ≤ c ∧ c ≤ capMax cfg) := by
  have := cfg.range_pos
  simp only [invalidCapacity, capMax, Bool.or_eq_true, decide_eq_true_eq, le_min_iff]
  omega

theorem capacityOperand_of_le {c : Nat} (h : c ≤ capMax cfg) : capacityOperand cfg c = c := by
  have := cfg.range_pos
  apply Nat.mod_eq_of_lt
  unfold capMax at h
  omega

theorem boolValue_lt (b : Bool) : boolValue b < 2 ^ cfg.opw := by
  have := cfg.byte_le_opw
  cases b <;> simp only [boolValue, if_true, Bool.false_eq_true, if_false] <;> omega

theorem byteValue_lt (b : Byte) : byteValue b < 2 ^ cfg.opw :=
  Nat.lt_of_lt_of_le b.isLt cfg.byte_le_opw

end Machine

end Sys2Proof
end

