-- ==== Sys2Proof/Laws/Memory.lean ====
section
/-! SUPPORT. The laws of the storage: read after write, and the canonical form that every store keeps. -/

namespace Sys2Proof.Machine

theorem Memory.lookup_writeByte (m : Memory) (a b : Nat) (v : Byte) :
    Memory.lookup (Memory.writeByte m a v) b = if a = b then some v else Memory.lookup m b := by
  induction m with
  | nil => simp [Memory.writeByte, Memory.lookup]
  | cons c m ih =>
    obtain ⟨k, d⟩ := c
    simp only [Memory.writeByte]
    split
    · simp [Memory.lookup]
    · split
      · next h => subst h; by_cases h' : a = b <;> simp [Memory.lookup, h']
      · next h =>
        simp only [Memory.lookup, ih]
        by_cases h' : k = b
        · subst h'; simp [h]
        · simp [h']

@[simp] theorem Memory.readByte_writeByte_same (m : Memory) (a : Nat) (v : Byte) :
    Memory.readByte (Memory.writeByte m a v) a = v := by
  simp [Memory.readByte, Memory.lookup_writeByte]

theorem Memory.readByte_writeByte_other (m : Memory) {a b : Nat} (v : Byte) (h : b ≠ a) :
    Memory.readByte (Memory.writeByte m a v) b = Memory.readByte m b := by
  simp [Memory.readByte, Memory.lookup_writeByte, h.symm]

/-- Strictly rising below a first entry: the first entry's address is below that of every other entry's. -/
theorem Memory.wf_cons {k : Nat} {d : Byte} {m : Memory} :
    Memory.wf ((k, d) :: m) = true ↔ (∀ e ∈ m.head?, k < e.1) ∧ Memory.wf m = true := by
  cases m with
  | nil => simp [Memory.wf]
  | cons e m => obtain ⟨l, c⟩ := e; simp [Memory.wf]

/-- The first entry after a store is the stored one or the old first one. -/
theorem Memory.head_writeByte (m : Memory) (a : Nat) (v : Byte) (e : Host.Cell)
    (h : (Memory.writeByte m a v).head? = some e) : e.1 = a ∨ ∃ c ∈ m.head?, c.1 = e.1 := by
  cases m with
  | nil => simp [Memory.writeByte] at h; exact .inl (by rw [← h])
  | cons c m =>
    obtain ⟨k, d⟩ := c
    simp only [Memory.writeByte] at h
    split at h
    · simp at h; exact .inl (by rw [← h])
    · split at h
      · simp at h; exact .inl (by rw [← h])
      · simp at h; exact .inr ⟨(k, d), by simp, by rw [← h]⟩

/-- Every store keeps the canonical form. -/
theorem Memory.wf_writeByte (m : Memory) (a : Nat) (v : Byte) (h : Memory.wf m = true) :
    Memory.wf (Memory.writeByte m a v) = true := by
  induction m with
  | nil => rfl
  | cons c m ih =>
    obtain ⟨k, d⟩ := c
    simp only [Memory.writeByte]
    have hm := Memory.wf_cons.mp h
    split
    · next hk => exact Memory.wf_cons.mpr ⟨by simpa using hk, h⟩
    · split
      · next hk => subst hk; exact Memory.wf_cons.mpr ⟨hm.1, hm.2⟩
      · next h1 h2 =>
        refine Memory.wf_cons.mpr ⟨fun e he => ?_, ih hm.2⟩
        rcases Memory.head_writeByte m a v e he with h' | ⟨c, hc, h'⟩
        · omega
        · rw [← h']; exact hm.1 c hc

/-- The addresses listed after a store are the stored one and the old ones. -/
theorem Memory.mem_writeByte {m : Memory} {a : Nat} {v : Byte} {e : Host.Cell}
    (h : e ∈ Memory.writeByte m a v) : e.1 = a ∨ e ∈ m := by
  induction m with
  | nil => simp [Memory.writeByte] at h; exact .inl (by rw [h])
  | cons c m ih =>
    obtain ⟨k, d⟩ := c
    simp only [Memory.writeByte] at h
    split at h
    · rcases List.mem_cons.mp h with h | h
      · exact .inl (by rw [h])
      · exact .inr h
    · split at h
      · rcases List.mem_cons.mp h with h | h
        · exact .inl (by rw [h])
        · exact .inr (List.mem_cons_of_mem _ h)
      · rcases List.mem_cons.mp h with h | h
        · exact .inr (by rw [h]; exact List.mem_cons_self)
        · exact (ih h).imp id (List.mem_cons_of_mem _)

theorem slotAddress_inj {cfg : Config} {i j : Nat} : slotAddress cfg i = slotAddress cfg j ↔ i = j := by
  simp [slotAddress]

end Sys2Proof.Machine
end

