-- ==== Sys2Proof/Laws/State.lean ====
section
/-! SUPPORT. One lemma per field per update of the state, all by definition, so that no later proof unfolds an update.
`observe` changes the model's own fields `views` and `draws` only. -/

namespace Sys2Proof.Machine

variable (s : State)

/-! ### `respond` -/

@[simp] theorem State.respond_cfg (e : Err) (v : Nat) : (s.respond e v).cfg = s.cfg := rfl
@[simp] theorem State.respond_capacity (e : Err) (v : Nat) : (s.respond e v).capacity = s.capacity := rfl
@[simp] theorem State.respond_writeIndex (e : Err) (v : Nat) : (s.respond e v).writeIndex = s.writeIndex := rfl
@[simp] theorem State.respond_readIndex (e : Err) (v : Nat) : (s.respond e v).readIndex = s.readIndex := rfl
@[simp] theorem State.respond_writeCount (e : Err) (v : Nat) : (s.respond e v).writeCount = s.writeCount := rfl
@[simp] theorem State.respond_readCount (e : Err) (v : Nat) : (s.respond e v).readCount = s.readCount := rfl
@[simp] theorem State.respond_storage (e : Err) (v : Nat) : (s.respond e v).storage = s.storage := rfl
@[simp] theorem State.respond_pPhase (e : Err) (v : Nat) : (s.respond e v).pPhase = s.pPhase := rfl
@[simp] theorem State.respond_pLatch (e : Err) (v : Nat) : (s.respond e v).pLatch = s.pLatch := rfl
@[simp] theorem State.respond_pChecked (e : Err) (v : Nat) : (s.respond e v).pChecked = s.pChecked := rfl
@[simp] theorem State.respond_cPhase (e : Err) (v : Nat) : (s.respond e v).cPhase = s.cPhase := rfl
@[simp] theorem State.respond_cLatch (e : Err) (v : Nat) : (s.respond e v).cLatch = s.cLatch := rfl
@[simp] theorem State.respond_cChecked (e : Err) (v : Nat) : (s.respond e v).cChecked = s.cChecked := rfl
@[simp] theorem State.respond_rsp (e : Err) (v : Nat) : (s.respond e v).rsp = s.rsp.set s.port (some ⟨e, v⟩) := rfl
@[simp] theorem State.respond_views (e : Err) (v : Nat) : (s.respond e v).views = s.views := rfl
@[simp] theorem State.respond_draws (e : Err) (v : Nat) : (s.respond e v).draws = s.draws := rfl
@[simp] theorem State.respond_reqs (e : Err) (v : Nat) : (s.respond e v).reqs = s.reqs := rfl
@[simp] theorem State.respond_checks (e : Err) (v : Nat) : (s.respond e v).checks = s.checks := rfl
@[simp] theorem State.respond_events (e : Err) (v : Nat) : (s.respond e v).events = s.events := rfl
@[simp] theorem State.respond_port (e : Err) (v : Nat) : (s.respond e v).port = s.port := rfl

/-! ### `raise` -/

@[simp] theorem State.raise_cfg (e : Err) : (s.raise e).cfg = s.cfg := rfl
@[simp] theorem State.raise_capacity (e : Err) : (s.raise e).capacity = s.capacity := rfl
@[simp] theorem State.raise_writeIndex (e : Err) : (s.raise e).writeIndex = s.writeIndex := rfl
@[simp] theorem State.raise_readIndex (e : Err) : (s.raise e).readIndex = s.readIndex := rfl
@[simp] theorem State.raise_writeCount (e : Err) : (s.raise e).writeCount = s.writeCount := rfl
@[simp] theorem State.raise_readCount (e : Err) : (s.raise e).readCount = s.readCount := rfl
@[simp] theorem State.raise_storage (e : Err) : (s.raise e).storage = s.storage := rfl
@[simp] theorem State.raise_pPhase (e : Err) : (s.raise e).pPhase = s.pPhase := rfl
@[simp] theorem State.raise_pLatch (e : Err) : (s.raise e).pLatch = s.pLatch := rfl
@[simp] theorem State.raise_pChecked (e : Err) : (s.raise e).pChecked = s.pChecked := rfl
@[simp] theorem State.raise_cPhase (e : Err) : (s.raise e).cPhase = s.cPhase := rfl
@[simp] theorem State.raise_cLatch (e : Err) : (s.raise e).cLatch = s.cLatch := rfl
@[simp] theorem State.raise_cChecked (e : Err) : (s.raise e).cChecked = s.cChecked := rfl
@[simp] theorem State.raise_rsp (e : Err) : (s.raise e).rsp = s.rsp.set s.port (some ⟨e, 0⟩) := rfl
@[simp] theorem State.raise_views (e : Err) : (s.raise e).views = s.views := rfl
@[simp] theorem State.raise_draws (e : Err) : (s.raise e).draws = s.draws := rfl
@[simp] theorem State.raise_reqs (e : Err) : (s.raise e).reqs = s.reqs := rfl
@[simp] theorem State.raise_checks (e : Err) : (s.raise e).checks = s.checks := rfl
@[simp] theorem State.raise_events (e : Err) : (s.raise e).events = s.events := rfl
@[simp] theorem State.raise_port (e : Err) : (s.raise e).port = s.port := rfl

/-! ### `cleared` -/

@[simp] theorem State.cleared_cfg (c : Nat) : (s.cleared c).cfg = s.cfg := rfl
@[simp] theorem State.cleared_capacity (c : Nat) : (s.cleared c).capacity = c := rfl
@[simp] theorem State.cleared_writeIndex (c : Nat) : (s.cleared c).writeIndex = 0 := rfl
@[simp] theorem State.cleared_readIndex (c : Nat) : (s.cleared c).readIndex = 0 := rfl
@[simp] theorem State.cleared_writeCount (c : Nat) : (s.cleared c).writeCount = 0 := rfl
@[simp] theorem State.cleared_readCount (c : Nat) : (s.cleared c).readCount = 0 := rfl
@[simp] theorem State.cleared_storage (c : Nat) : (s.cleared c).storage = s.storage := rfl
@[simp] theorem State.cleared_pPhase (c : Nat) : (s.cleared c).pPhase = s.pPhase := rfl
@[simp] theorem State.cleared_pLatch (c : Nat) : (s.cleared c).pLatch = s.pLatch := rfl
@[simp] theorem State.cleared_pChecked (c : Nat) : (s.cleared c).pChecked = s.pChecked := rfl
@[simp] theorem State.cleared_cPhase (c : Nat) : (s.cleared c).cPhase = s.cPhase := rfl
@[simp] theorem State.cleared_cLatch (c : Nat) : (s.cleared c).cLatch = s.cLatch := rfl
@[simp] theorem State.cleared_cChecked (c : Nat) : (s.cleared c).cChecked = s.cChecked := rfl
@[simp] theorem State.cleared_rsp (c : Nat) : (s.cleared c).rsp = s.rsp := rfl
@[simp] theorem State.cleared_views (c : Nat) : (s.cleared c).views = .fresh := rfl
@[simp] theorem State.cleared_draws (c : Nat) : (s.cleared c).draws = s.draws := rfl
@[simp] theorem State.cleared_reqs (c : Nat) : (s.cleared c).reqs = s.reqs := rfl
@[simp] theorem State.cleared_checks (c : Nat) : (s.cleared c).checks = s.checks := rfl
@[simp] theorem State.cleared_events (c : Nat) : (s.cleared c).events = s.events := rfl
@[simp] theorem State.cleared_port (c : Nat) : (s.cleared c).port = s.port := rfl

/-! ### `passedWR0` -/

@[simp] theorem State.passedWR0_cfg (v : Byte) : (s.passedWR0 v).cfg = s.cfg := rfl
@[simp] theorem State.passedWR0_capacity (v : Byte) : (s.passedWR0 v).capacity = s.capacity := rfl
@[simp] theorem State.passedWR0_writeIndex (v : Byte) : (s.passedWR0 v).writeIndex = s.writeIndex := rfl
@[simp] theorem State.passedWR0_readIndex (v : Byte) : (s.passedWR0 v).readIndex = s.readIndex := rfl
@[simp] theorem State.passedWR0_writeCount (v : Byte) : (s.passedWR0 v).writeCount = s.writeCount := rfl
@[simp] theorem State.passedWR0_readCount (v : Byte) : (s.passedWR0 v).readCount = s.readCount := rfl
@[simp] theorem State.passedWR0_storage (v : Byte) : (s.passedWR0 v).storage = s.storage := rfl
@[simp] theorem State.passedWR0_pPhase (v : Byte) : (s.passedWR0 v).pPhase = s.pPhase := rfl
@[simp] theorem State.passedWR0_pLatch (v : Byte) : (s.passedWR0 v).pLatch = v := rfl
@[simp] theorem State.passedWR0_pChecked (v : Byte) : (s.passedWR0 v).pChecked = true := rfl
@[simp] theorem State.passedWR0_cPhase (v : Byte) : (s.passedWR0 v).cPhase = s.cPhase := rfl
@[simp] theorem State.passedWR0_cLatch (v : Byte) : (s.passedWR0 v).cLatch = s.cLatch := rfl
@[simp] theorem State.passedWR0_cChecked (v : Byte) : (s.passedWR0 v).cChecked = s.cChecked := rfl
@[simp] theorem State.passedWR0_rsp (v : Byte) : (s.passedWR0 v).rsp = s.rsp := rfl
@[simp] theorem State.passedWR0_views (v : Byte) : (s.passedWR0 v).views = s.views := rfl
@[simp] theorem State.passedWR0_draws (v : Byte) : (s.passedWR0 v).draws = s.draws := rfl
@[simp] theorem State.passedWR0_reqs (v : Byte) : (s.passedWR0 v).reqs = s.reqs := rfl
@[simp] theorem State.passedWR0_checks (v : Byte) : (s.passedWR0 v).checks = s.checks := rfl
@[simp] theorem State.passedWR0_events (v : Byte) : (s.passedWR0 v).events = s.events := rfl
@[simp] theorem State.passedWR0_port (v : Byte) : (s.passedWR0 v).port = s.port := rfl

/-! ### `afterWR1` -/

@[simp] theorem State.afterWR1_cfg (v : Byte) : (s.afterWR1 v).cfg = s.cfg := rfl
@[simp] theorem State.afterWR1_capacity (v : Byte) : (s.afterWR1 v).capacity = s.capacity := rfl
@[simp] theorem State.afterWR1_writeIndex (v : Byte) : (s.afterWR1 v).writeIndex = s.writeIndex := rfl
@[simp] theorem State.afterWR1_readIndex (v : Byte) : (s.afterWR1 v).readIndex = s.readIndex := rfl
@[simp] theorem State.afterWR1_writeCount (v : Byte) : (s.afterWR1 v).writeCount = s.writeCount := rfl
@[simp] theorem State.afterWR1_readCount (v : Byte) : (s.afterWR1 v).readCount = s.readCount := rfl
@[simp] theorem State.afterWR1_storage (v : Byte) : (s.afterWR1 v).storage = s.storedAt s.writeIndex v := rfl
@[simp] theorem State.afterWR1_pPhase (v : Byte) : (s.afterWR1 v).pPhase = .stored := rfl
@[simp] theorem State.afterWR1_pLatch (v : Byte) : (s.afterWR1 v).pLatch = v := rfl
@[simp] theorem State.afterWR1_pChecked (v : Byte) : (s.afterWR1 v).pChecked = false := rfl
@[simp] theorem State.afterWR1_cPhase (v : Byte) : (s.afterWR1 v).cPhase = s.cPhase := rfl
@[simp] theorem State.afterWR1_cLatch (v : Byte) : (s.afterWR1 v).cLatch = s.cLatch := rfl
@[simp] theorem State.afterWR1_cChecked (v : Byte) : (s.afterWR1 v).cChecked = s.cChecked := rfl
@[simp] theorem State.afterWR1_rsp (v : Byte) : (s.afterWR1 v).rsp = s.rsp := rfl
@[simp] theorem State.afterWR1_views (v : Byte) : (s.afterWR1 v).views = s.views := rfl
@[simp] theorem State.afterWR1_draws (v : Byte) : (s.afterWR1 v).draws = s.draws := rfl
@[simp] theorem State.afterWR1_reqs (v : Byte) : (s.afterWR1 v).reqs = s.reqs := rfl
@[simp] theorem State.afterWR1_checks (v : Byte) : (s.afterWR1 v).checks = s.checks := rfl
@[simp] theorem State.afterWR1_events (v : Byte) : (s.afterWR1 v).events = s.events := rfl
@[simp] theorem State.afterWR1_port (v : Byte) : (s.afterWR1 v).port = s.port := rfl

/-! ### `afterWR2` -/

@[simp] theorem State.afterWR2_cfg : s.afterWR2.cfg = s.cfg := rfl
@[simp] theorem State.afterWR2_capacity : s.afterWR2.capacity = s.capacity := rfl
@[simp] theorem State.afterWR2_writeIndex : s.afterWR2.writeIndex = s.writeIndex := rfl
@[simp] theorem State.afterWR2_readIndex : s.afterWR2.readIndex = s.readIndex := rfl
@[simp] theorem State.afterWR2_writeCount : s.afterWR2.writeCount = incW s.cfg s.writeCount := rfl
@[simp] theorem State.afterWR2_readCount : s.afterWR2.readCount = s.readCount := rfl
@[simp] theorem State.afterWR2_storage : s.afterWR2.storage = s.storage := rfl
@[simp] theorem State.afterWR2_pPhase : s.afterWR2.pPhase = .counted := rfl
@[simp] theorem State.afterWR2_pLatch : s.afterWR2.pLatch = s.pLatch := rfl
@[simp] theorem State.afterWR2_pChecked : s.afterWR2.pChecked = s.pChecked := rfl
@[simp] theorem State.afterWR2_cPhase : s.afterWR2.cPhase = s.cPhase := rfl
@[simp] theorem State.afterWR2_cLatch : s.afterWR2.cLatch = s.cLatch := rfl
@[simp] theorem State.afterWR2_cChecked : s.afterWR2.cChecked = s.cChecked := rfl
@[simp] theorem State.afterWR2_rsp : s.afterWR2.rsp = s.rsp := rfl
@[simp] theorem State.afterWR2_views : s.afterWR2.views = s.viewsAfterCountedWrite := rfl
@[simp] theorem State.afterWR2_draws : s.afterWR2.draws = s.draws := rfl
@[simp] theorem State.afterWR2_reqs : s.afterWR2.reqs = s.reqs := rfl
@[simp] theorem State.afterWR2_checks : s.afterWR2.checks = s.checks := rfl
@[simp] theorem State.afterWR2_events : s.afterWR2.events = s.events := rfl
@[simp] theorem State.afterWR2_port : s.afterWR2.port = s.port := rfl

/-! ### `afterWR3` -/

@[simp] theorem State.afterWR3_cfg : s.afterWR3.cfg = s.cfg := rfl
@[simp] theorem State.afterWR3_capacity : s.afterWR3.capacity = s.capacity := rfl
@[simp] theorem State.afterWR3_writeIndex : s.afterWR3.writeIndex = advIndex s.capacity s.writeIndex := rfl
@[simp] theorem State.afterWR3_readIndex : s.afterWR3.readIndex = s.readIndex := rfl
@[simp] theorem State.afterWR3_writeCount : s.afterWR3.writeCount = s.writeCount := rfl
@[simp] theorem State.afterWR3_readCount : s.afterWR3.readCount = s.readCount := rfl
@[simp] theorem State.afterWR3_storage : s.afterWR3.storage = s.storage := rfl
@[simp] theorem State.afterWR3_pPhase : s.afterWR3.pPhase = .idle := rfl
@[simp] theorem State.afterWR3_pLatch : s.afterWR3.pLatch = s.pLatch := rfl
@[simp] theorem State.afterWR3_pChecked : s.afterWR3.pChecked = s.pChecked := rfl
@[simp] theorem State.afterWR3_cPhase : s.afterWR3.cPhase = s.cPhase := rfl
@[simp] theorem State.afterWR3_cLatch : s.afterWR3.cLatch = s.cLatch := rfl
@[simp] theorem State.afterWR3_cChecked : s.afterWR3.cChecked = s.cChecked := rfl
@[simp] theorem State.afterWR3_rsp : s.afterWR3.rsp = s.rsp := rfl
@[simp] theorem State.afterWR3_views : s.afterWR3.views = s.views := rfl
@[simp] theorem State.afterWR3_draws : s.afterWR3.draws = s.draws := rfl
@[simp] theorem State.afterWR3_reqs : s.afterWR3.reqs = s.reqs := rfl
@[simp] theorem State.afterWR3_checks : s.afterWR3.checks = s.checks := rfl
@[simp] theorem State.afterWR3_events : s.afterWR3.events = s.events := rfl
@[simp] theorem State.afterWR3_port : s.afterWR3.port = s.port := rfl

/-! ### `passedRD0` -/

@[simp] theorem State.passedRD0_cfg : s.passedRD0.cfg = s.cfg := rfl
@[simp] theorem State.passedRD0_capacity : s.passedRD0.capacity = s.capacity := rfl
@[simp] theorem State.passedRD0_writeIndex : s.passedRD0.writeIndex = s.writeIndex := rfl
@[simp] theorem State.passedRD0_readIndex : s.passedRD0.readIndex = s.readIndex := rfl
@[simp] theorem State.passedRD0_writeCount : s.passedRD0.writeCount = s.writeCount := rfl
@[simp] theorem State.passedRD0_readCount : s.passedRD0.readCount = s.readCount := rfl
@[simp] theorem State.passedRD0_storage : s.passedRD0.storage = s.storage := rfl
@[simp] theorem State.passedRD0_pPhase : s.passedRD0.pPhase = s.pPhase := rfl
@[simp] theorem State.passedRD0_pLatch : s.passedRD0.pLatch = s.pLatch := rfl
@[simp] theorem State.passedRD0_pChecked : s.passedRD0.pChecked = s.pChecked := rfl
@[simp] theorem State.passedRD0_cPhase : s.passedRD0.cPhase = s.cPhase := rfl
@[simp] theorem State.passedRD0_cLatch : s.passedRD0.cLatch = s.cLatch := rfl
@[simp] theorem State.passedRD0_cChecked : s.passedRD0.cChecked = true := rfl
@[simp] theorem State.passedRD0_rsp : s.passedRD0.rsp = s.rsp := rfl
@[simp] theorem State.passedRD0_views : s.passedRD0.views = s.views := rfl
@[simp] theorem State.passedRD0_draws : s.passedRD0.draws = s.draws := rfl
@[simp] theorem State.passedRD0_reqs : s.passedRD0.reqs = s.reqs := rfl
@[simp] theorem State.passedRD0_checks : s.passedRD0.checks = s.checks := rfl
@[simp] theorem State.passedRD0_events : s.passedRD0.events = s.events := rfl
@[simp] theorem State.passedRD0_port : s.passedRD0.port = s.port := rfl

/-! ### `afterRD1` -/

@[simp] theorem State.afterRD1_cfg : s.afterRD1.cfg = s.cfg := rfl
@[simp] theorem State.afterRD1_capacity : s.afterRD1.capacity = s.capacity := rfl
@[simp] theorem State.afterRD1_writeIndex : s.afterRD1.writeIndex = s.writeIndex := rfl
@[simp] theorem State.afterRD1_readIndex : s.afterRD1.readIndex = s.readIndex := rfl
@[simp] theorem State.afterRD1_writeCount : s.afterRD1.writeCount = s.writeCount := rfl
@[simp] theorem State.afterRD1_readCount : s.afterRD1.readCount = s.readCount := rfl
@[simp] theorem State.afterRD1_storage : s.afterRD1.storage = s.storage := rfl
@[simp] theorem State.afterRD1_pPhase : s.afterRD1.pPhase = s.pPhase := rfl
@[simp] theorem State.afterRD1_pLatch : s.afterRD1.pLatch = s.pLatch := rfl
@[simp] theorem State.afterRD1_pChecked : s.afterRD1.pChecked = s.pChecked := rfl
@[simp] theorem State.afterRD1_cPhase : s.afterRD1.cPhase = .loaded := rfl
@[simp] theorem State.afterRD1_cLatch : s.afterRD1.cLatch = s.byteAt s.readIndex := rfl
@[simp] theorem State.afterRD1_cChecked : s.afterRD1.cChecked = false := rfl
@[simp] theorem State.afterRD1_rsp : s.afterRD1.rsp = s.rsp := rfl
@[simp] theorem State.afterRD1_views : s.afterRD1.views = s.views := rfl
@[simp] theorem State.afterRD1_draws : s.afterRD1.draws = s.draws := rfl
@[simp] theorem State.afterRD1_reqs : s.afterRD1.reqs = s.reqs := rfl
@[simp] theorem State.afterRD1_checks : s.afterRD1.checks = s.checks := rfl
@[simp] theorem State.afterRD1_events : s.afterRD1.events = s.events := rfl
@[simp] theorem State.afterRD1_port : s.afterRD1.port = s.port := rfl

/-! ### `afterRD2` -/

@[simp] theorem State.afterRD2_cfg : s.afterRD2.cfg = s.cfg := rfl
@[simp] theorem State.afterRD2_capacity : s.afterRD2.capacity = s.capacity := rfl
@[simp] theorem State.afterRD2_writeIndex : s.afterRD2.writeIndex = s.writeIndex := rfl
@[simp] theorem State.afterRD2_readIndex : s.afterRD2.readIndex = s.readIndex := rfl
@[simp] theorem State.afterRD2_writeCount : s.afterRD2.writeCount = s.writeCount := rfl
@[simp] theorem State.afterRD2_readCount : s.afterRD2.readCount = incW s.cfg s.readCount := rfl
@[simp] theorem State.afterRD2_storage : s.afterRD2.storage = s.storage := rfl
@[simp] theorem State.afterRD2_pPhase : s.afterRD2.pPhase = s.pPhase := rfl
@[simp] theorem State.afterRD2_pLatch : s.afterRD2.pLatch = s.pLatch := rfl
@[simp] theorem State.afterRD2_pChecked : s.afterRD2.pChecked = s.pChecked := rfl
@[simp] theorem State.afterRD2_cPhase : s.afterRD2.cPhase = .counted := rfl
@[simp] theorem State.afterRD2_cLatch : s.afterRD2.cLatch = s.cLatch := rfl
@[simp] theorem State.afterRD2_cChecked : s.afterRD2.cChecked = s.cChecked := rfl
@[simp] theorem State.afterRD2_rsp : s.afterRD2.rsp = s.rsp := rfl
@[simp] theorem State.afterRD2_views : s.afterRD2.views = s.viewsAfterCountedRead := rfl
@[simp] theorem State.afterRD2_draws : s.afterRD2.draws = s.draws := rfl
@[simp] theorem State.afterRD2_reqs : s.afterRD2.reqs = s.reqs := rfl
@[simp] theorem State.afterRD2_checks : s.afterRD2.checks = s.checks := rfl
@[simp] theorem State.afterRD2_events : s.afterRD2.events = s.events := rfl
@[simp] theorem State.afterRD2_port : s.afterRD2.port = s.port := rfl

/-! ### `afterRD3` -/

@[simp] theorem State.afterRD3_cfg : s.afterRD3.cfg = s.cfg := rfl
@[simp] theorem State.afterRD3_capacity : s.afterRD3.capacity = s.capacity := rfl
@[simp] theorem State.afterRD3_writeIndex : s.afterRD3.writeIndex = s.writeIndex := rfl
@[simp] theorem State.afterRD3_readIndex : s.afterRD3.readIndex = advIndex s.capacity s.readIndex := rfl
@[simp] theorem State.afterRD3_writeCount : s.afterRD3.writeCount = s.writeCount := rfl
@[simp] theorem State.afterRD3_readCount : s.afterRD3.readCount = s.readCount := rfl
@[simp] theorem State.afterRD3_storage : s.afterRD3.storage = s.storage := rfl
@[simp] theorem State.afterRD3_pPhase : s.afterRD3.pPhase = s.pPhase := rfl
@[simp] theorem State.afterRD3_pLatch : s.afterRD3.pLatch = s.pLatch := rfl
@[simp] theorem State.afterRD3_pChecked : s.afterRD3.pChecked = s.pChecked := rfl
@[simp] theorem State.afterRD3_cPhase : s.afterRD3.cPhase = .idle := rfl
@[simp] theorem State.afterRD3_cLatch : s.afterRD3.cLatch = s.cLatch := rfl
@[simp] theorem State.afterRD3_cChecked : s.afterRD3.cChecked = s.cChecked := rfl
@[simp] theorem State.afterRD3_rsp : s.afterRD3.rsp = s.rsp := rfl
@[simp] theorem State.afterRD3_views : s.afterRD3.views = s.views := rfl
@[simp] theorem State.afterRD3_draws : s.afterRD3.draws = s.draws := rfl
@[simp] theorem State.afterRD3_reqs : s.afterRD3.reqs = s.reqs := rfl
@[simp] theorem State.afterRD3_checks : s.afterRD3.checks = s.checks := rfl
@[simp] theorem State.afterRD3_events : s.afterRD3.events = s.events := rfl
@[simp] theorem State.afterRD3_port : s.afterRD3.port = s.port := rfl

/-! ### `withEvents` -/

@[simp] theorem State.withEvents_cfg (es : List Event) : (s.withEvents es).cfg = s.cfg := rfl
@[simp] theorem State.withEvents_capacity (es : List Event) : (s.withEvents es).capacity = s.capacity := rfl
@[simp] theorem State.withEvents_writeIndex (es : List Event) : (s.withEvents es).writeIndex = s.writeIndex := rfl
@[simp] theorem State.withEvents_readIndex (es : List Event) : (s.withEvents es).readIndex = s.readIndex := rfl
@[simp] theorem State.withEvents_writeCount (es : List Event) : (s.withEvents es).writeCount = s.writeCount := rfl
@[simp] theorem State.withEvents_readCount (es : List Event) : (s.withEvents es).readCount = s.readCount := rfl
@[simp] theorem State.withEvents_storage (es : List Event) : (s.withEvents es).storage = s.storage := rfl
@[simp] theorem State.withEvents_pPhase (es : List Event) : (s.withEvents es).pPhase = s.pPhase := rfl
@[simp] theorem State.withEvents_pLatch (es : List Event) : (s.withEvents es).pLatch = s.pLatch := rfl
@[simp] theorem State.withEvents_pChecked (es : List Event) : (s.withEvents es).pChecked = s.pChecked := rfl
@[simp] theorem State.withEvents_cPhase (es : List Event) : (s.withEvents es).cPhase = s.cPhase := rfl
@[simp] theorem State.withEvents_cLatch (es : List Event) : (s.withEvents es).cLatch = s.cLatch := rfl
@[simp] theorem State.withEvents_cChecked (es : List Event) : (s.withEvents es).cChecked = s.cChecked := rfl
@[simp] theorem State.withEvents_rsp (es : List Event) : (s.withEvents es).rsp = s.rsp := rfl
@[simp] theorem State.withEvents_views (es : List Event) : (s.withEvents es).views = s.views := rfl
@[simp] theorem State.withEvents_draws (es : List Event) : (s.withEvents es).draws = s.draws := rfl
@[simp] theorem State.withEvents_reqs (es : List Event) : (s.withEvents es).reqs = s.reqs := rfl
@[simp] theorem State.withEvents_checks (es : List Event) : (s.withEvents es).checks = s.checks := rfl
@[simp] theorem State.withEvents_events (es : List Event) : (s.withEvents es).events = es := rfl
@[simp] theorem State.withEvents_port (es : List Event) : (s.withEvents es).port = s.port := rfl

/-! ### `withTurn` -/

@[simp] theorem State.withTurn_cfg (p : Port) : (s.withTurn p).cfg = s.cfg := rfl
@[simp] theorem State.withTurn_capacity (p : Port) : (s.withTurn p).capacity = s.capacity := rfl
@[simp] theorem State.withTurn_writeIndex (p : Port) : (s.withTurn p).writeIndex = s.writeIndex := rfl
@[simp] theorem State.withTurn_readIndex (p : Port) : (s.withTurn p).readIndex = s.readIndex := rfl
@[simp] theorem State.withTurn_writeCount (p : Port) : (s.withTurn p).writeCount = s.writeCount := rfl
@[simp] theorem State.withTurn_readCount (p : Port) : (s.withTurn p).readCount = s.readCount := rfl
@[simp] theorem State.withTurn_storage (p : Port) : (s.withTurn p).storage = s.storage := rfl
@[simp] theorem State.withTurn_pPhase (p : Port) : (s.withTurn p).pPhase = s.pPhase := rfl
@[simp] theorem State.withTurn_pLatch (p : Port) : (s.withTurn p).pLatch = s.pLatch := rfl
@[simp] theorem State.withTurn_pChecked (p : Port) : (s.withTurn p).pChecked = s.pChecked := rfl
@[simp] theorem State.withTurn_cPhase (p : Port) : (s.withTurn p).cPhase = s.cPhase := rfl
@[simp] theorem State.withTurn_cLatch (p : Port) : (s.withTurn p).cLatch = s.cLatch := rfl
@[simp] theorem State.withTurn_cChecked (p : Port) : (s.withTurn p).cChecked = s.cChecked := rfl
@[simp] theorem State.withTurn_rsp (p : Port) : (s.withTurn p).rsp = s.rsp := rfl
@[simp] theorem State.withTurn_views (p : Port) : (s.withTurn p).views = s.views := rfl
@[simp] theorem State.withTurn_draws (p : Port) : (s.withTurn p).draws = s.draws := rfl
@[simp] theorem State.withTurn_reqs (p : Port) : (s.withTurn p).reqs = s.reqs := rfl
@[simp] theorem State.withTurn_checks (p : Port) : (s.withTurn p).checks = s.checks := rfl
@[simp] theorem State.withTurn_events (p : Port) : (s.withTurn p).events = s.events := rfl
@[simp] theorem State.withTurn_port (p : Port) : (s.withTurn p).port = p := rfl

/-! ### `accepting` -/

@[simp] theorem State.accepting_cfg (p : Port) (i : Instr) (rest : List Request) : (s.accepting p i rest).cfg = s.cfg := rfl
@[simp] theorem State.accepting_capacity (p : Port) (i : Instr) (rest : List Request) : (s.accepting p i rest).capacity = s.capacity := rfl
@[simp] theorem State.accepting_writeIndex (p : Port) (i : Instr) (rest : List Request) : (s.accepting p i rest).writeIndex = s.writeIndex := rfl
@[simp] theorem State.accepting_readIndex (p : Port) (i : Instr) (rest : List Request) : (s.accepting p i rest).readIndex = s.readIndex := rfl
@[simp] theorem State.accepting_writeCount (p : Port) (i : Instr) (rest : List Request) : (s.accepting p i rest).writeCount = s.writeCount := rfl
@[simp] theorem State.accepting_readCount (p : Port) (i : Instr) (rest : List Request) : (s.accepting p i rest).readCount = s.readCount := rfl
@[simp] theorem State.accepting_storage (p : Port) (i : Instr) (rest : List Request) : (s.accepting p i rest).storage = s.storage := rfl
@[simp] theorem State.accepting_pPhase (p : Port) (i : Instr) (rest : List Request) : (s.accepting p i rest).pPhase = s.pPhase := rfl
@[simp] theorem State.accepting_pLatch (p : Port) (i : Instr) (rest : List Request) : (s.accepting p i rest).pLatch = s.pLatch := rfl
@[simp] theorem State.accepting_pChecked (p : Port) (i : Instr) (rest : List Request) : (s.accepting p i rest).pChecked = s.pChecked := rfl
@[simp] theorem State.accepting_cPhase (p : Port) (i : Instr) (rest : List Request) : (s.accepting p i rest).cPhase = s.cPhase := rfl
@[simp] theorem State.accepting_cLatch (p : Port) (i : Instr) (rest : List Request) : (s.accepting p i rest).cLatch = s.cLatch := rfl
@[simp] theorem State.accepting_cChecked (p : Port) (i : Instr) (rest : List Request) : (s.accepting p i rest).cChecked = s.cChecked := rfl
@[simp] theorem State.accepting_rsp (p : Port) (i : Instr) (rest : List Request) : (s.accepting p i rest).rsp = s.rsp := rfl
@[simp] theorem State.accepting_views (p : Port) (i : Instr) (rest : List Request) : (s.accepting p i rest).views = s.views := rfl
@[simp] theorem State.accepting_draws (p : Port) (i : Instr) (rest : List Request) : (s.accepting p i rest).draws = s.draws := rfl
@[simp] theorem State.accepting_reqs (p : Port) (i : Instr) (rest : List Request) : (s.accepting p i rest).reqs = s.reqs.set p rest := rfl
@[simp] theorem State.accepting_checks (p : Port) (i : Instr) (rest : List Request) : (s.accepting p i rest).checks = s.checks.set p ((s.checks.get p).next (isCheckOn p i)) := rfl
@[simp] theorem State.accepting_events (p : Port) (i : Instr) (rest : List Request) : (s.accepting p i rest).events = s.events := rfl
@[simp] theorem State.accepting_port (p : Port) (i : Instr) (rest : List Request) : (s.accepting p i rest).port = p := rfl

/-! ### `dropping` -/

@[simp] theorem State.dropping_cfg (p : Port) (rest : List Request) : (s.dropping p rest).cfg = s.cfg := rfl
@[simp] theorem State.dropping_capacity (p : Port) (rest : List Request) : (s.dropping p rest).capacity = s.capacity := rfl
@[simp] theorem State.dropping_writeIndex (p : Port) (rest : List Request) : (s.dropping p rest).writeIndex = s.writeIndex := rfl
@[simp] theorem State.dropping_readIndex (p : Port) (rest : List Request) : (s.dropping p rest).readIndex = s.readIndex := rfl
@[simp] theorem State.dropping_writeCount (p : Port) (rest : List Request) : (s.dropping p rest).writeCount = s.writeCount := rfl
@[simp] theorem State.dropping_readCount (p : Port) (rest : List Request) : (s.dropping p rest).readCount = s.readCount := rfl
@[simp] theorem State.dropping_storage (p : Port) (rest : List Request) : (s.dropping p rest).storage = s.storage := rfl
@[simp] theorem State.dropping_pPhase (p : Port) (rest : List Request) : (s.dropping p rest).pPhase = s.pPhase := rfl
@[simp] theorem State.dropping_pLatch (p : Port) (rest : List Request) : (s.dropping p rest).pLatch = s.pLatch := rfl
@[simp] theorem State.dropping_pChecked (p : Port) (rest : List Request) : (s.dropping p rest).pChecked = s.pChecked := rfl
@[simp] theorem State.dropping_cPhase (p : Port) (rest : List Request) : (s.dropping p rest).cPhase = s.cPhase := rfl
@[simp] theorem State.dropping_cLatch (p : Port) (rest : List Request) : (s.dropping p rest).cLatch = s.cLatch := rfl
@[simp] theorem State.dropping_cChecked (p : Port) (rest : List Request) : (s.dropping p rest).cChecked = s.cChecked := rfl
@[simp] theorem State.dropping_rsp (p : Port) (rest : List Request) : (s.dropping p rest).rsp = s.rsp := rfl
@[simp] theorem State.dropping_views (p : Port) (rest : List Request) : (s.dropping p rest).views = s.views := rfl
@[simp] theorem State.dropping_draws (p : Port) (rest : List Request) : (s.dropping p rest).draws = s.draws := rfl
@[simp] theorem State.dropping_reqs (p : Port) (rest : List Request) : (s.dropping p rest).reqs = s.reqs.set p rest := rfl
@[simp] theorem State.dropping_checks (p : Port) (rest : List Request) : (s.dropping p rest).checks = s.checks := rfl
@[simp] theorem State.dropping_events (p : Port) (rest : List Request) : (s.dropping p rest).events = s.events := rfl
@[simp] theorem State.dropping_port (p : Port) (rest : List Request) : (s.dropping p rest).port = p := rfl

/-! ### `applyReset` -/

@[simp] theorem State.applyReset_cfg : s.applyReset.cfg = s.cfg := rfl
@[simp] theorem State.applyReset_capacity : s.applyReset.capacity = 0 := rfl
@[simp] theorem State.applyReset_writeIndex : s.applyReset.writeIndex = 0 := rfl
@[simp] theorem State.applyReset_readIndex : s.applyReset.readIndex = 0 := rfl
@[simp] theorem State.applyReset_writeCount : s.applyReset.writeCount = 0 := rfl
@[simp] theorem State.applyReset_readCount : s.applyReset.readCount = 0 := rfl
@[simp] theorem State.applyReset_storage : s.applyReset.storage = s.storage := rfl
@[simp] theorem State.applyReset_pPhase : s.applyReset.pPhase = .idle := rfl
@[simp] theorem State.applyReset_pLatch : s.applyReset.pLatch = 0 := rfl
@[simp] theorem State.applyReset_pChecked : s.applyReset.pChecked = false := rfl
@[simp] theorem State.applyReset_cPhase : s.applyReset.cPhase = .idle := rfl
@[simp] theorem State.applyReset_cLatch : s.applyReset.cLatch = 0 := rfl
@[simp] theorem State.applyReset_cChecked : s.applyReset.cChecked = false := rfl
@[simp] theorem State.applyReset_rsp : s.applyReset.rsp = ⟨none, none, none⟩ := rfl
@[simp] theorem State.applyReset_views : s.applyReset.views = .fresh := rfl
@[simp] theorem State.applyReset_draws : s.applyReset.draws = s.draws := rfl
@[simp] theorem State.applyReset_reqs : s.applyReset.reqs = s.reqs := rfl
@[simp] theorem State.applyReset_checks : s.applyReset.checks = s.checks := rfl
@[simp] theorem State.applyReset_events : s.applyReset.events = s.events := rfl
@[simp] theorem State.applyReset_port : s.applyReset.port = s.port := rfl

/-! ### `observe` -/

@[simp] theorem State.observe_cfg : s.observe.cfg = s.cfg := by
  unfold State.observe; split <;> rfl
@[simp] theorem State.observe_capacity : s.observe.capacity = s.capacity := by
  unfold State.observe; split <;> rfl
@[simp] theorem State.observe_writeIndex : s.observe.writeIndex = s.writeIndex := by
  unfold State.observe; split <;> rfl
@[simp] theorem State.observe_readIndex : s.observe.readIndex = s.readIndex := by
  unfold State.observe; split <;> rfl
@[simp] theorem State.observe_writeCount : s.observe.writeCount = s.writeCount := by
  unfold State.observe; split <;> rfl
@[simp] theorem State.observe_readCount : s.observe.readCount = s.readCount := by
  unfold State.observe; split <;> rfl
@[simp] theorem State.observe_storage : s.observe.storage = s.storage := by
  unfold State.observe; split <;> rfl
@[simp] theorem State.observe_pPhase : s.observe.pPhase = s.pPhase := by
  unfold State.observe; split <;> rfl
@[simp] theorem State.observe_pLatch : s.observe.pLatch = s.pLatch := by
  unfold State.observe; split <;> rfl
@[simp] theorem State.observe_pChecked : s.observe.pChecked = s.pChecked := by
  unfold State.observe; split <;> rfl
@[simp] theorem State.observe_cPhase : s.observe.cPhase = s.cPhase := by
  unfold State.observe; split <;> rfl
@[simp] theorem State.observe_cLatch : s.observe.cLatch = s.cLatch := by
  unfold State.observe; split <;> rfl
@[simp] theorem State.observe_cChecked : s.observe.cChecked = s.cChecked := by
  unfold State.observe; split <;> rfl
@[simp] theorem State.observe_rsp : s.observe.rsp = s.rsp := by
  unfold State.observe; split <;> rfl
@[simp] theorem State.observe_reqs : s.observe.reqs = s.reqs := by
  unfold State.observe; split <;> rfl
@[simp] theorem State.observe_checks : s.observe.checks = s.checks := by
  unfold State.observe; split <;> rfl
@[simp] theorem State.observe_events : s.observe.events = s.events := by
  unfold State.observe; split <;> rfl
@[simp] theorem State.observe_port : s.observe.port = s.port := by
  unfold State.observe; split <;> rfl

theorem State.observe_sc (h : s.cfg.view = .sc) : s.observe = s := by simp [State.observe, h]

@[simp] theorem State.observe_inFlight (p : Port) : s.observe.inFlight p = s.inFlight p := by
  cases p <;> simp [State.inFlight]

@[simp] theorem State.respond_inFlight (e : Err) (v : Nat) (p : Port) : (s.respond e v).inFlight p = s.inFlight p := by
  cases p <;> rfl

@[simp] theorem State.raise_inFlight (e : Err) (p : Port) : (s.raise e).inFlight p = s.inFlight p := by
  cases p <;> rfl

@[simp] theorem State.cleared_inFlight (c : Nat) (p : Port) : (s.cleared c).inFlight p = s.inFlight p := by cases p <;> rfl

@[simp] theorem State.withEvents_inFlight (es : List Event) (p : Port) : (s.withEvents es).inFlight p = s.inFlight p := by
  cases p <;> rfl

@[simp] theorem State.withTurn_inFlight (q p : Port) : (s.withTurn q).inFlight p = s.inFlight p := by cases p <;> rfl

@[simp] theorem State.accepting_inFlight (q : Port) (i : Instr) (rest : List Request) (p : Port) :
    (s.accepting q i rest).inFlight p = s.inFlight p := by cases p <;> rfl

@[simp] theorem State.dropping_inFlight (q : Port) (rest : List Request) (p : Port) :
    (s.dropping q rest).inFlight p = s.inFlight p := by cases p <;> rfl

@[simp] theorem State.applyReset_inFlight (p : Port) : s.applyReset.inFlight p = false := by cases p <;> rfl

/-! ### One value for each port -/

@[simp] theorem PerPort.get_set_same {α : Type} (f : PerPort α) (p : Port) (v : α) : (f.set p v).get p = v := by
  cases p <;> rfl

@[simp] theorem PerPort.get_set_other {α : Type} (f : PerPort α) {p q : Port} (v : α) (h : q ≠ p) :
    (f.set p v).get q = f.get q := by
  cases p <;> cases q <;> first | rfl | exact absurd rfl h

@[simp] theorem PerPort.set_get {α : Type} (f : PerPort α) (p : Port) : f.set p (f.get p) = f := by
  cases p <;> rfl

@[simp] theorem PerPort.set_set {α : Type} (f : PerPort α) (p : Port) (u v : α) : (f.set p u).set p v = f.set p v := by
  cases p <;> rfl

theorem PerPort.set_inj {α : Type} (f : PerPort α) (p : Port) (u v : α) : f.set p u = f.set p v ↔ u = v := by
  cases p <;> simp [PerPort.set]

end Sys2Proof.Machine
end

