-- ==== Sys2Proof/Laws/Ops.lean ====
section
/-! SUPPORT. What each shared operation can do, said once, so that proofs cite it instead of unfolding it. -/

namespace Sys2Proof.Machine

variable {s t : State}

/-! ### Faults and port legality -/

theorem orFault_next {f : Option Fault} : orFault f s = .next t ↔ f = none ∧ t = s := by
  cases f <;> simp [orFault, eq_comm]

theorem orFault_fault {f : Option Fault} {e : Fault} : orFault f s = .fault e ↔ f = some e := by
  cases f <;> simp [orFault]

theorem orFault_refused {f : Option Fault} {r : Refusal} : orFault f s ≠ .refused r := by
  cases f <;> simp [orFault]

theorem onLegalPort_legal {i : Instr} {r : Result} (h : legalOn i s.port = true) : onLegalPort i s r = r := by
  simp [onLegalPort, h]

theorem onLegalPort_illegal {i : Instr} {r : Result} (h : legalOn i s.port = false) :
    onLegalPort i s r = .next (s.raise .illegalPort) := by
  simp [onLegalPort, h]

theorem onLegalPort_next {i : Instr} {r : Result} (h : onLegalPort i s r = .next t) :
    (legalOn i s.port = true ∧ r = .next t) ∨ (legalOn i s.port = false ∧ t = s.raise .illegalPort) := by
  unfold onLegalPort at h
  split at h
  · exact .inl ⟨‹_›, h⟩
  · next hl => exact .inr ⟨by simpa using hl, by simpa [eq_comm] using h⟩

theorem legalOn_init {c : Nat} {p : Port} : legalOn (.init c) p = true ↔ p = .controller := by
  cases p <;> simp [legalOn]

theorem legalOn_flush {p : Port} : legalOn .flush p = true ↔ p = .controller := by cases p <;> simp [legalOn]

theorem legalOn_write {v : Byte} {p : Port} : legalOn (.write v) p = true ↔ p = .producer := by
  cases p <;> simp [legalOn]

theorem legalOn_read {p : Port} : legalOn .read p = true ↔ p = .consumer := by cases p <;> simp [legalOn]

theorem capacityFault_none : s.capacityFault = none ↔ s.capacity ≠ 0 := by
  unfold State.capacityFault; split <;> simp_all

theorem slotFault_none {cfg : Config} {slot : Nat} : slotFault cfg slot = none ↔ slot < cfg.depth := by
  unfold slotFault; split <;> simp_all

theorem accessFault_none {slot : Nat} :
    s.accessFault slot = none ↔ s.capacity ≠ 0 ∧ slot < s.cfg.depth := by
  rw [← capacityFault_none, ← slotFault_none]
  unfold State.accessFault
  cases s.capacityFault <;> simp

theorem exclusiveFault_none :
    s.exclusiveFault = none ↔ s.inFlight .producer = false ∧ s.inFlight .consumer = false := by
  unfold State.exclusiveFault
  cases s.inFlight .producer <;> cases s.inFlight .consumer <;> simp

theorem not_inFlight_producer : s.inFlight .producer = false ↔ s.pPhase = .idle ∧ s.pChecked = false := by
  cases h : s.pPhase <;> simp [State.inFlight, WritePhase.busy, h]

theorem not_inFlight_consumer : s.inFlight .consumer = false ↔ s.cPhase = .idle ∧ s.cChecked = false := by
  cases h : s.cPhase <;> simp [State.inFlight, ReadPhase.busy, h]

/-! ### Snapshots -/

theorem headD_drop_mem {α : Type} (l : List α) (k : Nat) (x : α) : (l.drop k).headD x ∈ l ++ [x] := by
  cases h : l.drop k with
  | nil => simp
  | cons y ys =>
    have : y ∈ l := List.mem_of_mem_drop (h ▸ List.mem_cons_self)
    simp [this]

theorem given_sc (h : s.cfg.view = .sc) : s.given = s.now := by simp [State.given, h]

theorem given_stale (h : s.cfg.view = .stale) : s.given = ((s.older s.port).drop s.skips).headD s.now := by
  simp [State.given, h]

theorem givenOccupied_sc (h : s.cfg.view = .sc) : s.givenOccupied = s.occupied := by
  rw [State.givenOccupied, given_sc h]; rfl

/-- A port is given the current instant or one of the older ones. -/
theorem given_mem : s.given ∈ s.older s.port ++ [s.now] := by
  cases hv : s.cfg.view
  · rw [given_sc hv]; simp
  · rw [given_stale hv]; exact headD_drop_mem _ _ _

@[simp] theorem observe_now : s.observe.now = s.now := by simp [State.now]

/-- After its snapshot a port may be given the instant it was given and the later ones, and no other. -/
theorem observe_older (h : s.cfg.view = .stale) : s.observe.older s.port = (s.older s.port).drop s.skips := by
  unfold State.observe
  rw [h]
  cases hp : s.port <;> simp [State.older, Views.skip, List.map_drop]

theorem observe_older_head (h : s.cfg.view = .stale) : (s.observe.older s.port ++ [s.now]).head? = some s.given := by
  rw [observe_older h, given_stale h]
  cases (s.older s.port).drop s.skips <;> simp

/-- Port P is given its own count, the capacity, and a read count it may be given. -/
theorem given_producer (h : s.port = .producer) :
    ∃ r ∈ s.views.pReadCounts ++ [s.readCount], s.given = ⟨s.writeCount, r, s.capacity⟩ := by
  have hm := given_mem (s := s)
  simp only [State.older, h, List.mem_append, List.mem_map, List.mem_singleton] at hm
  rcases hm with ⟨r, hr, hm⟩ | hm
  · exact ⟨r, by simp [hr], hm.symm⟩
  · exact ⟨s.readCount, by simp, hm⟩

/-- Port C is given its own count, the capacity, and a write count it may be given. -/
theorem given_consumer (h : s.port = .consumer) :
    ∃ w ∈ s.views.cWriteCounts ++ [s.writeCount], s.given = ⟨w, s.readCount, s.capacity⟩ := by
  have hm := given_mem (s := s)
  simp only [State.older, h, List.mem_append, List.mem_map, List.mem_singleton] at hm
  rcases hm with ⟨w, hw, hm⟩ | hm
  · exact ⟨w, by simp [hw], hm.symm⟩
  · exact ⟨s.writeCount, by simp, hm⟩

/-- Port X is given one whole instant. -/
theorem given_controller (h : s.port = .controller) : s.given ∈ s.views.xInstants ++ [s.now] := by
  simpa [State.older, h] using given_mem (s := s)

/-- A snapshot takes older instants away and adds none. -/
theorem observe_views_suffix (s : State) :
    s.observe.views.pReadCounts <:+ s.views.pReadCounts ∧ s.observe.views.cWriteCounts <:+ s.views.cWriteCounts ∧
      s.observe.views.xInstants <:+ s.views.xInstants := by
  unfold State.observe
  split
  · simp
  · cases s.port <;> simp [Views.skip, List.drop_suffix]

@[simp] theorem skip_fresh (k : Nat) (p : Port) : Views.fresh.skip k p = .fresh := by
  cases p <;> simp [Views.fresh, Views.skip]

@[simp] theorem observe_views_fresh (h : s.views = .fresh) : s.observe.views = .fresh := by
  unfold State.observe
  split <;> simp [h]

/-- With no older instant to be given, a port is given the current one. -/
theorem given_fresh (h : s.views = .fresh) : s.given = s.now := by
  have hm := given_mem (s := s)
  cases hp : s.port <;> simpa [State.older, hp, h, Views.fresh] using hm

theorem givenOccupied_fresh (h : s.views = .fresh) : s.givenOccupied = s.occupied := by
  rw [State.givenOccupied, given_fresh h]; rfl

/-- Port P is given one of the read counts it may be given, and keeps that one and the later ones. -/
theorem producer_snapshot (h : s.port = .producer) (hsc : s.cfg.view = .sc → s.views = .fresh) :
    ∃ r, s.given = ⟨s.writeCount, r, s.capacity⟩ ∧ (s.observe.views.pReadCounts ++ [s.readCount]).head? = some r := by
  cases hv : s.cfg.view with
  | sc => exact ⟨s.readCount, given_sc hv, by simp [State.observe_sc s hv, hsc hv, Views.fresh]⟩
  | stale =>
    have hh := observe_older_head hv
    rw [h] at hh
    simp only [State.older] at hh
    cases hl : s.observe.views.pReadCounts <;> rw [hl] at hh <;> simp at hh <;> exact ⟨_, hh.symm, rfl⟩

/-- Port C is given one of the write counts it may be given, and keeps that one and the later ones. -/
theorem consumer_snapshot (h : s.port = .consumer) (hsc : s.cfg.view = .sc → s.views = .fresh) :
    ∃ w, s.given = ⟨w, s.readCount, s.capacity⟩ ∧ (s.observe.views.cWriteCounts ++ [s.writeCount]).head? = some w := by
  cases hv : s.cfg.view with
  | sc => exact ⟨s.writeCount, given_sc hv, by simp [State.observe_sc s hv, hsc hv, Views.fresh]⟩
  | stale =>
    have hh := observe_older_head hv
    rw [h] at hh
    simp only [State.older] at hh
    cases hl : s.observe.views.cWriteCounts <;> rw [hl] at hh <;> simp at hh <;> exact ⟨_, hh.symm, rfl⟩

/-! ### The meanings, by cases -/

/-- What `INIT` can do when it answers a next state. -/
theorem execInit_next {c : Nat} (h : execInit c s = .next t) :
    (s.port ≠ .controller ∧ t = s.raise .illegalPort) ∨
    (s.port = .controller ∧ s.inFlight .producer = false ∧ s.inFlight .consumer = false ∧
      ((s.cfg.hardened = true ∧ invalidCapacity s.cfg c = true ∧ t = s.raise .invalidCapacity) ∨
       ((s.cfg.hardened = true → invalidCapacity s.cfg c = false) ∧
        t = (s.cleared (capacityOperand s.cfg c)).respond .ok 0))) := by
  rcases onLegalPort_next h with ⟨hl, h⟩ | ⟨hl, h⟩
  · obtain ⟨hx, rfl⟩ := orFault_next.mp h
    obtain ⟨hp, hc⟩ := exclusiveFault_none.mp hx
    refine .inr ⟨legalOn_init.mp hl, hp, hc, ?_⟩
    by_cases hh : s.cfg.hardened = true <;> by_cases hi : invalidCapacity s.cfg c = true <;> simp [hh, hi]
  · exact .inl ⟨fun e => by simp [legalOn_init.mpr e] at hl, h⟩

/-- What `FLUSH` can do when it answers a next state. -/
theorem execFlush_next (h : execFlush s = .next t) :
    (s.port ≠ .controller ∧ t = s.raise .illegalPort) ∨
    (s.port = .controller ∧ s.inFlight .producer = false ∧ s.inFlight .consumer = false ∧
      t = (s.cleared s.capacity).respond .ok 0) := by
  rcases onLegalPort_next h with ⟨hl, h⟩ | ⟨hl, h⟩
  · obtain ⟨hx, rfl⟩ := orFault_next.mp h
    obtain ⟨hp, hc⟩ := exclusiveFault_none.mp hx
    exact .inr ⟨legalOn_flush.mp hl, hp, hc, rfl⟩
  · exact .inl ⟨fun e => by simp [legalOn_flush.mpr e] at hl, h⟩

/-- The answer of a query: an operation that is one, and the value it answers. -/
def queryValue (i : Instr) (s : State) : Option Nat :=
  match i with
  | .isempty => some (boolValue (emptyOf s.givenOccupied))
  | .isfull => some (boolValue (fullOf s.given.capacity s.givenOccupied))
  | .availdata => some s.givenOccupied
  | .availspace => some (s.given.space s.cfg)
  | _ => none

/-- A query always answers. -/
theorem exec_query {i : Instr} {v : Nat} (h : queryValue i s = some v) :
    exec i s = .next (s.observe.respond .ok v) := by
  cases i <;> simp [queryValue] at h <;> subst h <;> rfl

theorem queryValue_lt {i : Instr} {v : Nat} (h : queryValue i s = some v) : v < 2 ^ s.cfg.opw := by
  have hr := s.cfg.range_le_opw
  cases i <;> simp [queryValue] at h <;> subst h
  · exact boolValue_lt _ _
  · exact boolValue_lt _ _
  · exact Nat.lt_of_lt_of_le (subW_lt _ _ _) hr
  · exact Nat.lt_of_lt_of_le (subW_lt _ _ _) hr

/-- What a micro-step of `WRITE` can do when it answers a next state. -/
theorem execWrite_next {v : Byte} (h : execWrite v s = .next t) :
    (s.port ≠ .producer ∧ t = s.raise .illegalPort) ∨
    (s.port = .producer ∧
      ((s.pPhase = .idle ∧ s.cfg.hardened = true ∧ s.pChecked = false ∧ s.given.capacity ≤ s.givenOccupied ∧
          t = s.observe.raise .full) ∨
       (s.pPhase = .idle ∧ s.cfg.hardened = true ∧ s.pChecked = false ∧ s.givenOccupied < s.given.capacity ∧
          s.capacity ≠ 0 ∧ t = s.observe.passedWR0 v) ∨
       (s.pPhase = .idle ∧ s.cfg.hardened = true ∧ s.pChecked = true ∧ s.writeIndex < s.cfg.depth ∧
          t = s.afterWR1 v) ∨
       (s.pPhase = .idle ∧ s.cfg.hardened = false ∧ s.capacity ≠ 0 ∧ s.writeIndex < s.cfg.depth ∧
          t = s.afterWR1 v) ∨
       (s.pPhase = .stored ∧ t = s.afterWR2) ∨
       (s.pPhase = .counted ∧ s.capacity ≠ 0 ∧
          t = s.afterWR3.respond .ok 0))) := by
  rcases onLegalPort_next h with ⟨hl, h⟩ | ⟨hl, h⟩
  · refine .inr ⟨legalOn_write.mp hl, ?_⟩
    cases hp : s.pPhase <;> simp only [hp] at h
    · cases hh : s.cfg.hardened <;> simp only [hh, Bool.false_eq_true, ↓reduceIte] at h
      · obtain ⟨ha, rfl⟩ := orFault_next.mp h
        obtain ⟨h1, h2⟩ := accessFault_none.mp ha
        exact .inr (.inr (.inr (.inl ⟨rfl, rfl, h1, h2, rfl⟩)))
      · cases hc : s.pChecked <;> simp only [hc, Bool.false_eq_true, ↓reduceIte] at h
        · unfold openingCheck at h
          split at h
          · next hf => exact .inl ⟨rfl, rfl, rfl, by simpa [fullOf] using hf, by simpa [eq_comm] using h⟩
          · next hf =>
            obtain ⟨ha, rfl⟩ := orFault_next.mp h
            exact .inr (.inl ⟨rfl, rfl, rfl, by simpa [fullOf] using hf, capacityFault_none.mp ha, rfl⟩)
        · obtain ⟨ha, rfl⟩ := orFault_next.mp h
          exact .inr (.inr (.inl ⟨rfl, rfl, rfl, slotFault_none.mp ha, rfl⟩))
    · exact .inr (.inr (.inr (.inr (.inl ⟨rfl, by simpa [eq_comm] using h⟩))))
    · obtain ⟨ha, rfl⟩ := orFault_next.mp h
      exact .inr (.inr (.inr (.inr (.inr ⟨rfl, capacityFault_none.mp ha, rfl⟩))))
  · exact .inl ⟨fun e => by simp [legalOn_write.mpr e] at hl, h⟩

/-- What a micro-step of `READ` can do when it answers a next state. -/
theorem execRead_next (h : execRead s = .next t) :
    (s.port ≠ .consumer ∧ t = s.raise .illegalPort) ∨
    (s.port = .consumer ∧
      ((s.cPhase = .idle ∧ s.cfg.hardened = true ∧ s.cChecked = false ∧ s.givenOccupied = 0 ∧
          t = s.observe.raise .empty) ∨
       (s.cPhase = .idle ∧ s.cfg.hardened = true ∧ s.cChecked = false ∧ s.givenOccupied ≠ 0 ∧
          s.capacity ≠ 0 ∧ t = s.observe.passedRD0) ∨
       (s.cPhase = .idle ∧ s.cfg.hardened = true ∧ s.cChecked = true ∧ s.readIndex < s.cfg.depth ∧ t = s.afterRD1) ∨
       (s.cPhase = .idle ∧ s.cfg.hardened = false ∧ s.capacity ≠ 0 ∧ s.readIndex < s.cfg.depth ∧
          t = s.afterRD1) ∨
       (s.cPhase = .loaded ∧ t = s.afterRD2) ∨
       (s.cPhase = .counted ∧ s.capacity ≠ 0 ∧
          t = s.afterRD3.respond .ok (byteValue s.cLatch)))) := by
  rcases onLegalPort_next h with ⟨hl, h⟩ | ⟨hl, h⟩
  · refine .inr ⟨legalOn_read.mp hl, ?_⟩
    cases hp : s.cPhase <;> simp only [hp] at h
    · cases hh : s.cfg.hardened <;> simp only [hh, Bool.false_eq_true, ↓reduceIte] at h
      · obtain ⟨ha, rfl⟩ := orFault_next.mp h
        obtain ⟨h1, h2⟩ := accessFault_none.mp ha
        exact .inr (.inr (.inr (.inl ⟨rfl, rfl, h1, h2, rfl⟩)))
      · cases hc : s.cChecked <;> simp only [hc, Bool.false_eq_true, ↓reduceIte] at h
        · unfold openingCheck at h
          split at h
          · next hf => exact .inl ⟨rfl, rfl, rfl, by simpa [emptyOf] using hf, by simpa [eq_comm] using h⟩
          · next hf =>
            obtain ⟨ha, rfl⟩ := orFault_next.mp h
            exact .inr (.inl ⟨rfl, rfl, rfl, by simpa [emptyOf] using hf, capacityFault_none.mp ha, rfl⟩)
        · obtain ⟨ha, rfl⟩ := orFault_next.mp h
          exact .inr (.inr (.inl ⟨rfl, rfl, rfl, slotFault_none.mp ha, rfl⟩))
    · exact .inr (.inr (.inr (.inr (.inl ⟨rfl, by simpa [eq_comm] using h⟩))))
    · obtain ⟨ha, rfl⟩ := orFault_next.mp h
      exact .inr (.inr (.inr (.inr (.inr ⟨rfl, capacityFault_none.mp ha, rfl⟩))))
  · exact .inl ⟨fun e => by simp [legalOn_read.mpr e] at hl, h⟩

/-! ### The data operations on their port -/

/-- `WRITE` on port P is the micro-step its phase names. -/
theorem execWrite_producer {v : Byte} (h : s.port = .producer) :
    exec (.write v) s = match s.pPhase with
      | .idle =>
        if s.cfg.hardened then
          if s.pChecked then orFault (slotFault s.cfg s.writeIndex) (s.afterWR1 v)
          else openingCheck (fullOf s.given.capacity s.givenOccupied) .full (s.observe.passedWR0 v) s
        else orFault (s.accessFault s.writeIndex) (s.afterWR1 v)
      | .stored => .next s.afterWR2
      | .counted => orFault s.capacityFault (s.afterWR3.respond .ok 0) :=
  onLegalPort_legal (legalOn_write.mpr h)

/-- `READ` on port C is the micro-step its phase names. -/
theorem execRead_consumer (h : s.port = .consumer) :
    exec .read s = match s.cPhase with
      | .idle =>
        if s.cfg.hardened then
          if s.cChecked then orFault (slotFault s.cfg s.readIndex) s.afterRD1
          else openingCheck (emptyOf s.givenOccupied) .empty s.observe.passedRD0 s
        else orFault (s.accessFault s.readIndex) s.afterRD1
      | .loaded => .next s.afterRD2
      | .counted =>
        orFault s.capacityFault (s.afterRD3.respond .ok (byteValue s.cLatch)) :=
  onLegalPort_legal (legalOn_read.mpr h)

/-- The byte of every slot after `WR1`. -/
theorem afterWR1_byteAt {v : Byte} (j : Nat) :
    (s.afterWR1 v).byteAt j = if j = s.writeIndex then v else s.byteAt j := by
  unfold State.byteAt
  simp only [State.afterWR1_storage, State.afterWR1_cfg, State.storedAt]
  split
  · next h => subst h; simp
  · next h => exact Memory.readByte_writeByte_other _ _ (by simpa [slotAddress_inj] using h)

end Sys2Proof.Machine
end

