-- ==== Sys2Proof/Laws/Frame.lean ====
section
/-! SUPPORT. What one micro-step of any operation can do, said once, and what it leaves alone. -/

namespace Sys2Proof.Machine

variable {s t : State}

/-- Everything a micro-step can do when it answers a next state. -/
inductive Did (s t : State) : Instr → Prop
  | illegal {i : Instr} (legal : legalOn i s.port = false) (eq : t = s.raise .illegalPort) : Did s t i
  | answered {i : Instr} {v : Nat} (value : queryValue i s = some v) (eq : t = s.observe.respond .ok v) : Did s t i
  | invalid {c : Nat} (port : s.port = .controller) (p : s.inFlight .producer = false)
      (c' : s.inFlight .consumer = false) (hardened : s.cfg.hardened = true)
      (capacity : invalidCapacity s.cfg c = true) (eq : t = s.raise .invalidCapacity) : Did s t (.init c)
  | installed {c : Nat} (port : s.port = .controller) (p : s.inFlight .producer = false)
      (c' : s.inFlight .consumer = false) (capacity : s.cfg.hardened = true → invalidCapacity s.cfg c = false)
      (eq : t = (s.cleared (capacityOperand s.cfg c)).respond .ok 0) : Did s t (.init c)
  | flushed (port : s.port = .controller) (p : s.inFlight .producer = false) (c' : s.inFlight .consumer = false)
      (eq : t = (s.cleared s.capacity).respond .ok 0) : Did s t .flush
  | full {v : Byte} (port : s.port = .producer) (phase : s.pPhase = .idle) (hardened : s.cfg.hardened = true)
      (checked : s.pChecked = false) (full : s.given.capacity ≤ s.givenOccupied)
      (eq : t = s.observe.raise .full) : Did s t (.write v)
  | wr0 {v : Byte} (port : s.port = .producer) (phase : s.pPhase = .idle) (hardened : s.cfg.hardened = true)
      (checked : s.pChecked = false) (room : s.givenOccupied < s.given.capacity)
      (capacity : s.capacity ≠ 0) (eq : t = s.observe.passedWR0 v) : Did s t (.write v)
  | wr1 {v : Byte} (port : s.port = .producer) (phase : s.pPhase = .idle) (hardened : s.cfg.hardened = true)
      (checked : s.pChecked = true) (slot : s.writeIndex < s.cfg.depth) (eq : t = s.afterWR1 v) : Did s t (.write v)
  | wr1Unchecked {v : Byte} (port : s.port = .producer) (phase : s.pPhase = .idle) (hardened : s.cfg.hardened = false)
      (capacity : s.capacity ≠ 0) (slot : s.writeIndex < s.cfg.depth) (eq : t = s.afterWR1 v) :
      Did s t (.write v)
  | wr2 {v : Byte} (port : s.port = .producer) (phase : s.pPhase = .stored) (eq : t = s.afterWR2) : Did s t (.write v)
  | wr3 {v : Byte} (port : s.port = .producer) (phase : s.pPhase = .counted) (capacity : s.capacity ≠ 0)
      (eq : t = s.afterWR3.respond .ok 0) : Did s t (.write v)
  | empty (port : s.port = .consumer) (phase : s.cPhase = .idle) (hardened : s.cfg.hardened = true)
      (checked : s.cChecked = false) (empty : s.givenOccupied = 0) (eq : t = s.observe.raise .empty) : Did s t .read
  | rd0 (port : s.port = .consumer) (phase : s.cPhase = .idle) (hardened : s.cfg.hardened = true)
      (checked : s.cChecked = false) (data : s.givenOccupied ≠ 0) (capacity : s.capacity ≠ 0)
      (eq : t = s.observe.passedRD0) : Did s t .read
  | rd1 (port : s.port = .consumer) (phase : s.cPhase = .idle) (hardened : s.cfg.hardened = true)
      (checked : s.cChecked = true) (slot : s.readIndex < s.cfg.depth) (eq : t = s.afterRD1) : Did s t .read
  | rd1Unchecked (port : s.port = .consumer) (phase : s.cPhase = .idle) (hardened : s.cfg.hardened = false)
      (capacity : s.capacity ≠ 0) (slot : s.readIndex < s.cfg.depth) (eq : t = s.afterRD1) :
      Did s t .read
  | rd2 (port : s.port = .consumer) (phase : s.cPhase = .loaded) (eq : t = s.afterRD2) : Did s t .read
  | rd3 (port : s.port = .consumer) (phase : s.cPhase = .counted) (capacity : s.capacity ≠ 0)
      (eq : t = s.afterRD3.respond .ok (byteValue s.cLatch)) : Did s t .read

theorem not_legalOn {i : Instr} (h : legalOn i s.port ≠ true) : legalOn i s.port = false := by simpa using h

theorem exec_did {i : Instr} (he : exec i s = .next t) : Did s t i := by
  have query : ∀ {v : Nat}, queryValue i s = some v → Did s t i := fun {v} hv => by
    have h := exec_query hv
    rw [he] at h
    cases h
    exact .answered hv rfl
  cases i with
  | init c =>
    rcases execInit_next he with ⟨h, e⟩ | ⟨hx, hp, hc, ⟨hh, hi, e⟩ | ⟨hi, e⟩⟩
    · exact .illegal (not_legalOn fun hl => h (legalOn_init.mp hl)) e
    · exact .invalid hx hp hc hh hi e
    · exact .installed hx hp hc hi e
  | flush =>
    rcases execFlush_next he with ⟨h, e⟩ | ⟨hx, hp, hc, e⟩
    · exact .illegal (not_legalOn fun hl => h (legalOn_flush.mp hl)) e
    · exact .flushed hx hp hc e
  | isempty => exact query rfl
  | isfull => exact query rfl
  | availdata => exact query rfl
  | availspace => exact query rfl
  | write v =>
    rcases execWrite_next he with ⟨h, e⟩ | ⟨hp, ⟨h1, h2, h3, h4, e⟩ | ⟨h1, h2, h3, h4, h5, e⟩ | ⟨h1, h2, h3, h4, e⟩ |
      ⟨h1, h2, h3, h4, e⟩ | ⟨h1, e⟩ | ⟨h1, h2, e⟩⟩
    · exact .illegal (not_legalOn fun hl => h (legalOn_write.mp hl)) e
    · exact .full hp h1 h2 h3 h4 e
    · exact .wr0 hp h1 h2 h3 h4 h5 e
    · exact .wr1 hp h1 h2 h3 h4 e
    · exact .wr1Unchecked hp h1 h2 h3 h4 e
    · exact .wr2 hp h1 e
    · exact .wr3 hp h1 h2 e
  | read =>
    rcases execRead_next he with ⟨h, e⟩ | ⟨hp, ⟨h1, h2, h3, h4, e⟩ | ⟨h1, h2, h3, h4, h5, e⟩ | ⟨h1, h2, h3, h4, e⟩ |
      ⟨h1, h2, h3, h4, e⟩ | ⟨h1, e⟩ | ⟨h1, h2, e⟩⟩
    · exact .illegal (not_legalOn fun hl => h (legalOn_read.mp hl)) e
    · exact .empty hp h1 h2 h3 h4 e
    · exact .rd0 hp h1 h2 h3 h4 h5 e
    · exact .rd1 hp h1 h2 h3 h4 e
    · exact .rd1Unchecked hp h1 h2 h3 h4 e
    · exact .rd2 hp h1 e
    · exact .rd3 hp h1 h2 e

/-! ### What no operation writes -/

theorem exec_cfg {i : Instr} (he : exec i s = .next t) : t.cfg = s.cfg := by
  cases exec_did he <;> simp [*]

theorem exec_reqs {i : Instr} (he : exec i s = .next t) : t.reqs = s.reqs := by
  cases exec_did he <;> simp [*]

theorem exec_events {i : Instr} (he : exec i s = .next t) : t.events = s.events := by
  cases exec_did he <;> simp [*]

theorem exec_checks {i : Instr} (he : exec i s = .next t) : t.checks = s.checks := by
  cases exec_did he <;> simp [*]

theorem exec_port {i : Instr} (he : exec i s = .next t) : t.port = s.port := by
  cases exec_did he <;> simp_all

/-- Only the port whose command runs is answered. -/
theorem exec_rsp_other {i : Instr} (he : exec i s = .next t) {p : Port} (hp : p ≠ s.port) :
    t.rsp.get p = s.rsp.get p := by
  cases exec_did he <;> subst_vars <;> simp [hp]

/-! ### What only one port writes -/

/-- Only port P moves the state of a `WRITE` in flight, and only port P stores. -/
theorem exec_not_producer {i : Instr} (hp : s.port ≠ .producer) (he : exec i s = .next t) :
    t.storage = s.storage ∧ t.pPhase = s.pPhase ∧ t.pLatch = s.pLatch ∧ t.pChecked = s.pChecked := by
  cases exec_did he <;> first | exact absurd ‹s.port = .producer› hp | (subst_vars; simp)

/-- Only port C moves the state of a `READ` in flight. -/
theorem exec_not_consumer {i : Instr} (hp : s.port ≠ .consumer) (he : exec i s = .next t) :
    t.cPhase = s.cPhase ∧ t.cLatch = s.cLatch ∧ t.cChecked = s.cChecked := by
  cases exec_did he <;> first | exact absurd ‹s.port = .consumer› hp | (subst_vars; simp)

theorem exec_producer_inFlight {i : Instr} (hp : s.port ≠ .producer) (he : exec i s = .next t) :
    t.inFlight .producer = s.inFlight .producer := by
  obtain ⟨-, h1, -, h2⟩ := exec_not_producer hp he
  simp [State.inFlight, h1, h2]

theorem exec_consumer_inFlight {i : Instr} (hp : s.port ≠ .consumer) (he : exec i s = .next t) :
    t.inFlight .consumer = s.inFlight .consumer := by
  obtain ⟨h1, -, h2⟩ := exec_not_consumer hp he
  simp [State.inFlight, h1, h2]

/-- Only `INIT` on port X installs a capacity. -/
theorem exec_capacity {i : Instr} (he : exec i s = .next t) :
    t.capacity = s.capacity ∨
    ∃ c, i = .init c ∧ s.port = .controller ∧ (s.cfg.hardened = true → invalidCapacity s.cfg c = false) ∧
      t.capacity = capacityOperand s.cfg c := by
  cases exec_did he
  case installed c hx hp hc hi e => exact .inr ⟨c, rfl, hx, hi, by rw [e]; rfl⟩
  all_goals subst_vars; simp

end Sys2Proof.Machine
end

