-- ==== Sys2Proof/Laws/PerInstr.lean ====
section
/-! SUPPORT. One statement made for every operation: the command word of a well-formed operation fits the port's wires, and
its two fields are the code of R93 and the operand (30_encoding.md R92). -/

namespace Sys2Proof.Laws.EncodeFits

/-- The word fits `3 + OPW` bits, its top three bits are the operation code, the rest the operand. -/
def Statement (i : Instr) : Prop :=
  ∀ cfg : Config, i.wf cfg = true →
    encode cfg i < 2 ^ (3 + cfg.opw) ∧ encode cfg i / 2 ^ cfg.opw = i.opcode ∧ encode cfg i % 2 ^ cfg.opw = i.operand

/-- A code below 8 and an operand that fits its field make such a word. -/
theorem word_fields (cfg : Config) {k x : Nat} (hk : k < 8) (hx : x < 2 ^ cfg.opw) :
    k * 2 ^ cfg.opw + x < 2 ^ (3 + cfg.opw) ∧ (k * 2 ^ cfg.opw + x) / 2 ^ cfg.opw = k ∧
      (k * 2 ^ cfg.opw + x) % 2 ^ cfg.opw = x := by
  refine ⟨?_, ?_, ?_⟩
  · have : (k + 1) * 2 ^ cfg.opw ≤ 8 * 2 ^ cfg.opw := Nat.mul_le_mul_right _ hk
    have : 2 ^ (3 + cfg.opw) = 8 * 2 ^ cfg.opw := Nat.pow_add 2 3 cfg.opw
    have : (k + 1) * 2 ^ cfg.opw = k * 2 ^ cfg.opw + 2 ^ cfg.opw := Nat.succ_mul _ _
    omega
  · rw [Nat.mul_comm, Nat.mul_add_div (Nat.two_pow_pos _), Nat.div_eq_of_lt hx, Nat.add_zero]
  · rw [Nat.mul_comm, Nat.mul_add_mod, Nat.mod_eq_of_lt hx]

/-- The operand of every operation but `INIT` and `WRITE` is 0. -/
theorem word_fields_zero (cfg : Config) {k : Nat} (hk : k < 8) :
    k * 2 ^ cfg.opw + 0 < 2 ^ (3 + cfg.opw) ∧ (k * 2 ^ cfg.opw + 0) / 2 ^ cfg.opw = k ∧
      (k * 2 ^ cfg.opw + 0) % 2 ^ cfg.opw = 0 :=
  word_fields cfg hk (Nat.two_pow_pos _)

theorem init (capacity : Nat) : Statement (.init capacity) := fun cfg h =>
  word_fields cfg (k := 0) (by decide) (of_decide_eq_true h)

theorem isempty : Statement .isempty := fun cfg _ => word_fields_zero cfg (k := 1) (by decide)

theorem isfull : Statement .isfull := fun cfg _ => word_fields_zero cfg (k := 2) (by decide)

theorem availdata : Statement .availdata := fun cfg _ => word_fields_zero cfg (k := 3) (by decide)

theorem availspace : Statement .availspace := fun cfg _ => word_fields_zero cfg (k := 4) (by decide)

theorem write (value : Byte) : Statement (.write value) := fun cfg _ =>
  word_fields cfg (k := 5) (by decide) (Machine.byteValue_lt cfg value)

theorem read : Statement .read := fun cfg _ => word_fields_zero cfg (k := 6) (by decide)

theorem flush : Statement .flush := fun cfg _ => word_fields_zero cfg (k := 7) (by decide)

end Sys2Proof.Laws.EncodeFits
end

