-- ==== Sys2Proof/Laws/Step.lean ====
section
/-! SUPPORT. What a turn and a step can lead to, said once. -/

namespace Sys2Proof.Machine

variable {s t : State}

theorem present_run {p : Port} {word : Nat} {rest : List Request} {i : Instr} (h : present p word rest s = .run i t) :
    decode s.cfg word = .ok i ∧ t = s.accepting p i rest := by
  unfold present at h
  split at h
  · next hd => cases h; exact ⟨hd, rfl⟩
  · cases h

theorem present_ne_idle {p : Port} {word : Nat} {rest : List Request} : present p word rest s ≠ .idle t := by
  unfold present; split <;> simp

/-- A port that runs a micro-step goes on with its operation in flight, or is idle and accepts the first of its agent's
requests. -/
theorem fetch_run {p : Port} {i : Instr} (h : fetch p s = .run i t) :
    (s.inFlightInstr p = some i ∧ t = s.withTurn p) ∨
    (s.inFlightInstr p = none ∧ ∃ word rest,
      ((∃ r, s.reqs.get p = .issue word r :: rest) ∨ (s.reqs.get p = .issueIfZero word :: rest ∧ s.lastWasZero p = true)) ∧
      decode s.cfg word = .ok i ∧ t = s.accepting p i rest) := by
  unfold fetch at h
  split at h
  · next j hj => simp at h; exact .inl ⟨by rw [hj, h.1], h.2.symm⟩
  · next hn =>
    refine .inr ⟨hn, ?_⟩
    split at h
    · simp at h
    · next w b r hr => obtain ⟨hd, rfl⟩ := present_run h; exact ⟨w, r, .inl ⟨b, hr⟩, hd, rfl⟩
    · next w r hr =>
      split at h
      · next hz => obtain ⟨hd, rfl⟩ := present_run h; exact ⟨w, r, .inr ⟨hr, hz⟩, hd, rfl⟩
      · simp at h

/-- A port that does nothing is idle, and has no request or one whose condition is not met. -/
theorem fetch_idle {p : Port} (h : fetch p s = .idle t) :
    s.inFlightInstr p = none ∧
      ((s.reqs.get p = [] ∧ t = s.withTurn p) ∨
       ∃ word rest, s.reqs.get p = .issueIfZero word :: rest ∧ s.lastWasZero p = false ∧
        t = s.dropping p rest) := by
  unfold fetch at h
  split at h
  · simp at h
  · next hn =>
    refine ⟨hn, ?_⟩
    split at h
    · next hr => simp at h; exact .inl ⟨hr, h.symm⟩
    · exact absurd h present_ne_idle
    · next w r hr =>
      split at h
      · exact absurd h present_ne_idle
      · next hz => simp at h; exact .inr ⟨w, r, hr, by simpa using hz, h.symm⟩

theorem inFlightInstr_producer {i : Instr} (h : s.inFlightInstr .producer = some i) :
    i = .write s.pLatch ∧ s.inFlight .producer = true := by
  unfold State.inFlightInstr at h
  split at h
  · exact ⟨by simpa [eq_comm] using h, ‹_›⟩
  · simp at h

theorem inFlightInstr_consumer {i : Instr} (h : s.inFlightInstr .consumer = some i) :
    i = .read ∧ s.inFlight .consumer = true := by
  unfold State.inFlightInstr at h
  split at h
  · exact ⟨by simpa [eq_comm] using h, ‹_›⟩
  · simp at h

@[simp] theorem inFlightInstr_controller : s.inFlightInstr .controller = none := rfl

theorem inFlightInstr_none {p : Port} : s.inFlightInstr p = none ↔ s.inFlight p = false := by
  unfold State.inFlightInstr
  cases h : s.inFlight p
  · simp
  · cases p
    · simp
    · simp
    · simp [State.inFlight] at h

/-- What a step can do when it answers a next state. -/
theorem step_next (h : step s = .next t) :
    (s.events = [] ∧ t = s) ∨
    (∃ es, s.events = .reset :: es ∧ t = (s.withEvents es).applyReset) ∨
    (∃ p es, s.events = .turn p :: es ∧
      (fetch p (s.withEvents es) = .idle t ∨
       ∃ i u, fetch p (s.withEvents es) = .run i u ∧ exec i u = .next t)) := by
  unfold step at h
  split at h
  · next he => exact .inl ⟨he, by simpa [eq_comm] using h⟩
  · next es he => exact .inr (.inl ⟨es, he, by simpa [eq_comm] using h⟩)
  · next p es he =>
    refine .inr (.inr ⟨p, es, he, ?_⟩)
    split at h
    · next hf => exact .inl (by simp at h; rw [hf, h])
    · next i u hf => exact .inr ⟨i, u, hf, h⟩
    · simp at h

/-! ### Which micro-step a turn leads to -/

theorem lastWasZero_iff {p : Port} : s.lastWasZero p = true ↔ s.rsp.get p = some ⟨.ok, 0⟩ := by
  unfold State.lastWasZero isOkZero
  split
  · next v h => simp [h]
  · next h => exact ⟨fun h' => by simp at h', fun h' => absurd h' (h 0)⟩

theorem fetch_in_flight {p : Port} {i : Instr} (h : s.inFlightInstr p = some i) : fetch p s = .run i (s.withTurn p) := by
  unfold fetch; rw [h]

theorem fetch_no_request {p : Port} (h : s.inFlight p = false) (hr : s.reqs.get p = []) :
    fetch p s = .idle (s.withTurn p) := by
  unfold fetch; rw [inFlightInstr_none.mpr h, hr]

theorem fetch_issue {p : Port} {w : Nat} {b : Bool} {r : List Request} (h : s.inFlight p = false)
    (hr : s.reqs.get p = .issue w b :: r) : fetch p s = present p w r s := by
  unfold fetch; rw [inFlightInstr_none.mpr h, hr]

theorem fetch_issueIfZero {p : Port} {w : Nat} {r : List Request} (h : s.inFlight p = false)
    (hr : s.reqs.get p = .issueIfZero w :: r) :
    fetch p s = if s.lastWasZero p then present p w r s else .idle (s.dropping p r) := by
  unfold fetch; rw [inFlightInstr_none.mpr h, hr]

theorem step_turn {p : Port} {es : List Event} (h : s.events = .turn p :: es) :
    step s = match fetch p (s.withEvents es) with
      | .idle t => .next t
      | .run i t => exec i t
      | .reject r => .refused r := by
  unfold step
  split
  · next h' => rw [h] at h'; cases h'
  · next h' => rw [h] at h'; cases h'
  · next h' => rw [h] at h'; cases h'; rfl

/-- A run takes its first step first. -/
theorem run_succ (n : Nat) (s : State) :
    Host.Core.run Sys2Proof.core (n + 1) s = match step s with
      | .next t => Host.Core.run Sys2Proof.core n t
      | .fault e => .fault e
      | .refused r => .refused r := by
  have h : Sys2Proof.core.step s = step s := rfl
  cases hs : step s <;> (rw [hs] at h; simp only [Host.Core.run]; rw [h])

end Sys2Proof.Machine
end

