-- ==== Sys2Proof/Laws/Queue.lean ====
section
/-! SUPPORT. Lemmas about the terms of Safety.lean: what the ports may be given, the occupancy, guarded requests, whole
operations, and which command a turn runs. -/

namespace Sys2Proof.Machine

variable {s t : State}

/-! ### What the ports may be given -/

theorem append_suffix {α : Type} {l m : List α} (h : l <:+ m) (x : α) : (l ++ [x]) <:+ (m ++ [x]) := by
  obtain ⟨p, rfl⟩ := h
  exact ⟨p, by rw [List.append_assoc]⟩

/-- After any snapshot port P may be given some of what it could be given before. -/
theorem observe_readCountsForP (s : State) : s.observe.readCountsForP <:+ s.readCountsForP := by
  simpa [State.readCountsForP] using append_suffix (observe_views_suffix s).1 s.readCount

/-- After any snapshot port C may be given some of what it could be given before. -/
theorem observe_writeCountsForC (s : State) : s.observe.writeCountsForC <:+ s.writeCountsForC := by
  simpa [State.writeCountsForC] using append_suffix (observe_views_suffix s).2.1 s.writeCount

theorem readCount_mem : s.readCount ∈ s.readCountsForP := by simp [State.readCountsForP]

theorem writeCount_mem : s.writeCount ∈ s.writeCountsForC := by simp [State.writeCountsForC]

/-- What `WR2` adds to what port C may be given: the new count, and under STALE the old one stays. -/
theorem afterWR2_writeCountsForC :
    ∃ l, s.afterWR2.writeCountsForC = l ++ [incW s.cfg s.writeCount] ∧
      (l = s.views.cWriteCounts ∨ l = s.writeCountsForC) := by
  unfold State.writeCountsForC
  simp only [State.afterWR2_views, State.viewsAfterCountedWrite, State.afterWR2_writeCount]
  split
  · exact ⟨_, rfl, .inl rfl⟩
  · exact ⟨_, rfl, .inr rfl⟩

@[simp] theorem afterWR2_readCountsForP : s.afterWR2.readCountsForP = s.readCountsForP := by
  unfold State.readCountsForP
  simp only [State.afterWR2_views, State.viewsAfterCountedWrite, State.afterWR2_readCount]
  split <;> rfl

/-- What `RD2` adds to what port P may be given: the new count, and under STALE the old one stays. -/
theorem afterRD2_readCountsForP :
    ∃ l, s.afterRD2.readCountsForP = l ++ [incW s.cfg s.readCount] ∧
      (l = s.views.pReadCounts ∨ l = s.readCountsForP) := by
  unfold State.readCountsForP
  simp only [State.afterRD2_views, State.viewsAfterCountedRead, State.afterRD2_readCount]
  split
  · exact ⟨_, rfl, .inl rfl⟩
  · exact ⟨_, rfl, .inr rfl⟩

@[simp] theorem afterRD2_writeCountsForC : s.afterRD2.writeCountsForC = s.writeCountsForC := by
  unfold State.writeCountsForC
  simp only [State.afterRD2_views, State.viewsAfterCountedRead, State.afterRD2_writeCount]
  split <;> rfl

/-! ### The occupancy -/

theorem occupied_lt_of_room (h : s.roomForP) : s.occupied < s.capacity := h _ readCount_mem

theorem occupied_pos_of_data (h : s.dataForC) : 0 < s.occupied := h _ writeCount_mem

theorem le_last {l : List Nat} {x a : Nat} (h : (l ++ [x]).Pairwise (· ≤ ·)) (ha : a ∈ l ++ [x]) : a ≤ x := by
  rw [List.pairwise_append] at h
  rcases List.mem_append.mp ha with ha | ha
  · exact h.2.2 a ha x (by simp)
  · simp at ha; omega

theorem last_le {l : List Nat} {x a : Nat} (h : (l ++ [x]).Pairwise (· ≥ ·)) (ha : a ∈ l ++ [x]) : x ≤ a := by
  rw [List.pairwise_append] at h
  rcases List.mem_append.mp ha with ha | ha
  · exact h.2.2 a ha x (by simp)
  · simp at ha; omega

/-- No value that port P may be given shows the queue emptier than it is. -/
theorem State.ViewsSafe.le_seenByP (h : s.ViewsSafe) {r : Nat} (hr : r ∈ s.readCountsForP) :
    s.occupied ≤ occupiedOf s.cfg s.writeCount r := by
  have hp := h.seenByP
  have hm := List.mem_map_of_mem (f := occupiedOf s.cfg s.writeCount) hr
  unfold State.readCountsForP at hp hm
  rw [List.map_append] at hp hm
  exact last_le hp hm

/-- No value that port C may be given shows the queue fuller than it is. -/
theorem State.ViewsSafe.seenByC_le (h : s.ViewsSafe) {w : Nat} (hw : w ∈ s.writeCountsForC) :
    occupiedOf s.cfg w s.readCount ≤ s.occupied := by
  have hp := h.seenByC
  have hm := List.mem_map_of_mem (f := (occupiedOf s.cfg · s.readCount)) hw
  unfold State.writeCountsForC at hp hm
  rw [List.map_append] at hp hm
  exact le_last hp hm

/-- With room for one more, counting a `WRITE` raises the occupancy by one. -/
theorem afterWR2_occupied (hc : s.capacity < s.cfg.range) (h : s.occupied < s.capacity) :
    s.afterWR2.occupied = s.occupied + 1 :=
  subW_inc_left (cfg := s.cfg) (a := s.writeCount) (b := s.readCount) (by
    have : subW s.cfg s.writeCount s.readCount = s.occupied := rfl
    omega)

/-- With an element in the queue, counting a `READ` lowers the occupancy by one. -/
theorem afterRD2_occupied (h : 0 < s.occupied) : s.afterRD2.occupied = s.occupied - 1 :=
  subW_inc_right s.cfg h

theorem Inv_pChecked_false (h : s.Inv) (hp : s.pPhase ≠ .idle) : s.pChecked = false := by
  by_contra hc
  exact hp (h.pChecked_idle (by simpa using hc)).2

theorem Inv_cChecked_false (h : s.Inv) (hp : s.cPhase ≠ .idle) : s.cChecked = false := by
  by_contra hc
  exact hp (h.cChecked_idle (by simpa using hc)).2

/-- The queue is sound wherever it is empty and the data ports are idle. -/
theorem State.QueueSound.fresh (hw : s.writeIndex = 0) (hr : s.readIndex = 0) (hwc : s.writeCount = 0) (hrc : s.readCount = 0)
    (hp : s.inFlight .producer = false) (hc : s.inFlight .consumer = false) : s.QueueSound := by
  have hp := not_inFlight_producer.mp hp
  have hc := not_inFlight_consumer.mp hc
  have ho : s.occupied = 0 := by simp [State.occupied, occupiedOf, hwc, hrc]
  exact {
    occupied_le := by omega
    slots := by simp [State.nextWriteSlot, State.nextReadSlot, hp, hc, hw, hr, ho]
    room := by simp [hp]
    data := by simp [hc]
    stored_byte := by simp [hp]
    loaded_byte := by simp [hc] }

/-- What the ports see is safe wherever the queue is empty, the data ports are idle, and no port is given a late value. -/
theorem State.ViewsSafe.of_empty (hwc : s.writeCount = 0) (hrc : s.readCount = 0) (hvp : s.views.pReadCounts = [])
    (hvc : s.views.cWriteCounts = []) (hvx : s.views.xInstants = []) (hp : s.inFlight .producer = false)
    (hc : s.inFlight .consumer = false) : s.ViewsSafe := by
  have hp := not_inFlight_producer.mp hp
  have hc := not_inFlight_consumer.mp hc
  exact {
    seenByP := by simp [State.readCountsForP, hvp]
    seenByP_le := by simp [State.readCountsForP, hvp, hwc, hrc, occupiedOf]
    seenByC := by simp [State.writeCountsForC, hvc]
    seenByX := by simp [hvx]
    write_room := by simp [hp]
    read_data := by simp [hc] }

/-! ### Guarded requests -/

theorem guarded_issue {cfg : Config} {op query : Instr → Bool} {c b : Bool} {w : Nat} {l : List Request} {i : Instr}
    (h : guarded cfg op query c (.issue w b :: l) = true) (hd : decode cfg w = .ok i) :
    op i = false ∧ guarded cfg op query (query i) l = true := by
  simp only [guarded, commandIs, hd, Bool.and_eq_true, Bool.not_eq_true'] at h
  exact h

theorem guarded_issueIfZero {cfg : Config} {op query : Instr → Bool} {c : Bool} {w : Nat} {l : List Request}
    (h : guarded cfg op query c (.issueIfZero w :: l) = true) :
    guarded cfg op query false l = true ∧ ∀ i, decode cfg w = .ok i → op i = true → c = true := by
  simp only [guarded, commandIs, Bool.and_eq_true] at h
  exact ⟨h.2, fun i hd ho => by simpa [hd, ho] using h.1⟩

/-! ### Whole operations -/

theorem finish_ends {n : Nat} {i : Instr} (he : exec i s = .next t) (h : t.inFlight t.port = false) :
    finish (n + 1) i s = .next t := by
  simp [finish, he, h]

theorem finish_goes_on {n : Nat} {i : Instr} (he : exec i s = .next t) (h : t.inFlight t.port = true) :
    finish (n + 1) i s = finish n i t := by
  simp [finish, he, h]

/-! ### Which command a turn runs -/

/-- The events still to come play no part in what a turn runs. -/
theorem fetch_withEvents_run {p : Port} {es : List Event} {i : Instr} (h : fetch p (s.withEvents es) = .run i t) :
    s.nextCommand p = some i := by
  have hf : fetch p s = .run i { t with events := s.events } := by
    unfold fetch at h ⊢
    revert h
    rw [show (s.withEvents es).inFlightInstr p = s.inFlightInstr p by cases p <;> rfl]
    split
    · intro h; simp at h; obtain ⟨rfl, rfl⟩ := h; rfl
    · simp only [State.withEvents_reqs]
      split
      · simp
      · intro h
        obtain ⟨hd, rfl⟩ := present_run h
        have hd : decode s.cfg _ = .ok i := hd
        simp only [present, hd]
        rfl
      · rw [show (s.withEvents es).lastWasZero p = s.lastWasZero p from rfl]
        split
        · intro h
          obtain ⟨hd, rfl⟩ := present_run h
          have hd : decode s.cfg _ = .ok i := hd
          simp only [present, hd]
          rfl
        · simp
  simp [State.nextCommand, hf]

/-- What a step in a turn does: the inputs move, and a micro-step of the port's next command is taken or nothing. -/
theorem turn_next {p : Port} {es : List Event} (h : s.events = .turn p :: es) (he : step s = .next t) :
    ∃ u : State, u = { s with events := es, port := p, reqs := u.reqs, checks := u.checks } ∧
      ((u = t ∧ s.inFlightInstr p = none ∧ s.nextCommand p = none) ∨
       ∃ i, exec i u = .next t ∧ s.nextCommand p = some i ∧
        (s.inFlightInstr p = some i ∨ s.inFlightInstr p = none)) := by
  rw [step_turn h] at he
  have hi : (s.withEvents es).inFlightInstr p = s.inFlightInstr p := by cases p <;> rfl
  cases hf : fetch p (s.withEvents es) with
  | idle u =>
    rw [hf] at he
    simp at he
    subst he
    obtain ⟨h0, hr⟩ := fetch_idle hf
    rw [hi] at h0
    have hn := inFlightInstr_none.mp h0
    rcases hr with ⟨hr, rfl⟩ | ⟨w, r, hr, hz, rfl⟩
    · refine ⟨_, rfl, .inl ⟨rfl, h0, ?_⟩⟩
      unfold State.nextCommand
      rw [fetch_no_request hn hr]
    · refine ⟨_, rfl, .inl ⟨rfl, h0, ?_⟩⟩
      unfold State.nextCommand
      rw [fetch_issueIfZero hn hr, if_neg (by rw [show s.lastWasZero p = false from hz]; simp)]
  | run i u =>
    rw [hf] at he
    have hc := fetch_withEvents_run hf
    rcases fetch_run hf with ⟨h0, rfl⟩ | ⟨h0, w, r, _, _, rfl⟩
    · exact ⟨_, rfl, .inr ⟨i, he, hc, .inl (by rw [← hi]; exact h0)⟩⟩
    · exact ⟨_, rfl, .inr ⟨i, he, hc, .inr (by rw [← hi]; exact h0)⟩⟩
  | reject r => rw [hf] at he; simp at he

end Sys2Proof.Machine
end

