-- ==== Sys2Proof/Tests/Slice0.lean ====
section
/-! SUPPORT. Tests of one step each, their expected results from 95_test_vectors.md (the vector is named), and for every
statement with hypotheses a state and operands that meet them. -/

namespace Sys2Proof.Machine

namespace Tests

/-! ### Helpers -/

/-- The reference parameters in either mode. -/
def config (hardened : Bool) : Config := { Config.reference with hardened := hardened }

/-- `cap / wi / ri / wc / rc` of 95_test_vectors.md, with port `p` about to execute. -/
def state (p : Port) (hardened : Bool) (cap wi ri wc rc : Nat) (st : Memory) : State :=
  { State.resetWith (config hardened) with
    capacity := cap, writeIndex := wi, readIndex := ri, writeCount := wc, readCount := rc, storage := st, port := p }

/-- The state in another phase of a `WRITE`. -/
def writing (s : State) (ph : WritePhase) (checked : Bool) (latch : Byte) : State :=
  { s with pPhase := ph, pChecked := checked, pLatch := latch }

/-- The state in another phase of a `READ`. -/
def reading (s : State) (ph : ReadPhase) (checked : Bool) (latch : Byte) : State :=
  { s with cPhase := ph, cChecked := checked, cLatch := latch }

/-- The state with requests of the agents. -/
def asked (s : State) (p c x : List Request) : State := { s with reqs := ⟨p, c, x⟩ }

/-- What a test looks at. -/
structure Seen where
  capacity : Nat
  writeIndex : Nat
  readIndex : Nat
  writeCount : Nat
  readCount : Nat
  /-- The response word on the port that ran. -/
  word : Option Nat
  deriving DecidableEq, Repr

/-- `cap / wi / ri / wc / rc` after a step, and the response word on the port that ran. -/
def seen : Result → Option Seen
  | .next t => some ⟨t.capacity, t.writeIndex, t.readIndex, t.writeCount, t.readCount,
      (t.rsp.get t.port).map (encodeResponse t.cfg)⟩
  | _ => none

/-- The model fault a step ends in. -/
def faultOf : Result → Option Fault
  | .fault e => some e
  | _ => none

/-- Something that a later state would show. -/
def after {α : Type} (f : State → α) : Result → Option α
  | .next t => some (f t)
  | _ => none

end Tests

open Tests

/-! ### Form and decoding -/

/-- V-N2; an operand of nine bits fits no reference command. -/
theorem test_wf_refuses_wide_operand :
    (Instr.init 255).wf Config.reference = true ∧ (Instr.init 256).wf Config.reference = false := by decide

theorem test_wf_accepts_the_rest :
    ∀ i ∈ [Instr.isempty, .isfull, .availdata, .availspace, .write 255, .read, .flush], i.wf Config.reference = true := by
  decide

theorem test_decode_init : decode Config.reference 0b000_00001011 = .ok (.init 11) := by rfl
theorem test_decode_isempty : decode Config.reference 0b001_00000000 = .ok .isempty := by rfl
theorem test_decode_isfull : decode Config.reference 0b010_00000000 = .ok .isfull := by rfl
theorem test_decode_availdata : decode Config.reference 0b011_00000000 = .ok .availdata := by rfl
theorem test_decode_availspace : decode Config.reference 0b100_00000000 = .ok .availspace := by rfl
theorem test_decode_write : decode Config.reference 0b101_00011010 = .ok (.write 26) := by rfl
theorem test_decode_read : decode Config.reference 0b110_00000000 = .ok .read := by rfl
theorem test_decode_flush : decode Config.reference 0b111_00000000 = .ok .flush := by rfl

/-- R98: the operand bits of an operation without operand are ignored (V-N3, V-L7, V-D18). -/
theorem test_decode_ignores_operand :
    decode Config.reference 0b001_11111111 = .ok .isempty ∧ decode Config.reference 0b111_10100101 = .ok .flush ∧
      decode Config.reference 0b110_11111111 = .ok .read := ⟨rfl, rfl, rfl⟩

/-- R92: twelve bits are no reference command. -/
theorem test_decode_refuses_wide_word : decode Config.reference 0x800 = .error .wordTooWide := by rfl

/-- At `W = 12` the word has 15 bits and the code stands above twelve operand bits (R92, R93). -/
theorem test_decode_wide_parameters :
    decode { Config.reference with w := 12 } 0b101_111100011010 = .ok (.write 0x1A) ∧
      decode { Config.reference with w := 12 } 0b000_111100011010 = .ok (.init 0xF1A) := ⟨rfl, rfl⟩

/-- V-N11. -/
theorem test_response_words :
    encodeResponse Config.reference ⟨.ok, 22⟩ = 0x016 ∧ encodeResponse Config.reference ⟨.full, 0⟩ = 0x100 ∧
      encodeResponse Config.reference ⟨.empty, 0⟩ = 0x200 ∧
      encodeResponse Config.reference ⟨.invalidCapacity, 0⟩ = 0x300 ∧
      encodeResponse Config.reference ⟨.illegalPort, 0⟩ = 0x400 := by decide

/-- R103. -/
theorem test_text :
    Instr.text .producer (.write 26) = "P: WRITE 26" ∧ Instr.text .controller (.init 11) = "X: INIT 11" ∧
      Instr.text .consumer .isempty = "C: ISEMPTY" := by decide

/-! ### One step of each operation -/

/-- V-L3; the largest operand is no negative number. -/
theorem test_init_installs :
    seen (exec (.init 255) (state .controller true 4 3 1 7 5 [])) = some ⟨255, 0, 0, 0, 0, some 0x000⟩ := by decide

/-- V-L9, V-L10: the capacity 0. -/
theorem test_init_zero :
    seen (exec (.init 0) (state .controller true 4 3 1 7 5 [])) = some ⟨4, 3, 1, 7, 5, some 0x300⟩ ∧
      seen (exec (.init 0) (state .controller false 4 3 1 7 5 [])) = some ⟨0, 0, 0, 0, 0, some 0x000⟩ := by decide

/-- V-L5: the storage stays. -/
theorem test_flush_clears :
    seen (exec .flush (state .controller true 4 3 1 3 1 [(0, 1), (1, 2), (2, 3)])) = some ⟨4, 0, 0, 0, 0, some 0x000⟩ ∧
      after State.storage (exec .flush (state .controller true 4 3 1 3 1 [(0, 1), (1, 2), (2, 3)])) =
        some [(0, 1), (1, 2), (2, 3)] := by decide

/-- V-L13, V-L14. -/
theorem test_flush_illegal_and_exclusive :
    seen (exec .flush (state .consumer true 4 1 0 1 0 [])) = some ⟨4, 1, 0, 1, 0, some 0x400⟩ ∧
      faultOf (exec .flush (writing (state .controller true 4 0 0 0 0 []) .stored false 0)) = some .exclusiveAccess := by
  decide

/-- V-Q6, V-Q14. -/
theorem test_isempty :
    seen (exec .isempty (state .producer true 4 1 1 5 5 [])) = some ⟨4, 1, 1, 5, 5, some 0x001⟩ ∧
      seen (exec .isempty (state .consumer false 4 0 1 0 1 [])) = some ⟨4, 0, 1, 0, 1, some 0x000⟩ := by decide

/-- V-Q17, V-Q5: the comparison is unsigned. -/
theorem test_isfull :
    seen (exec .isfull (state .controller true 200 0 0 200 0 [])) = some ⟨200, 0, 0, 200, 0, some 0x001⟩ ∧
      seen (exec .isfull (state .producer true 22 21 0 21 0 [])) = some ⟨22, 21, 0, 21, 0, some 0x000⟩ := by decide

/-- V-Q9, V-Q14: the write counter has wrapped, and then the difference. -/
theorem test_availdata :
    seen (exec .availdata (state .consumer true 4 0 1 0 253 [])) = some ⟨4, 0, 1, 0, 253, some 3⟩ ∧
      seen (exec .availdata (state .consumer false 4 0 1 0 1 [])) = some ⟨4, 0, 1, 0, 1, some 255⟩ := by decide

/-- V-Q7, V-Q10: in and out of contract. -/
theorem test_availspace :
    seen (exec .availspace (state .producer true 4 3 0 255 252 [])) = some ⟨4, 3, 0, 255, 252, some 1⟩ ∧
      seen (exec .availspace (state .producer false 4 2 2 2 250 [])) = some ⟨4, 2, 2, 2, 250, some 252⟩ := by decide

/-- The micro-step trace of V-D1, with the counter of V-D5: `WR2` counts, and the counter wraps. -/
theorem test_write_counts :
    seen (exec (.write 0x13) (writing (state .producer true 4 3 0 255 252 [(3, 0x13)]) .stored false 0x13)) =
        some ⟨4, 3, 0, 0, 252, none⟩ ∧
      after State.pPhase (exec (.write 0x13) (writing (state .producer true 4 3 0 255 252 [(3, 0x13)]) .stored false 0x13)) =
        some .counted := by decide

/-- V-D11, V-D10: on the full queue. -/
theorem test_write_full :
    seen (exec (.write 3) (state .producer true 2 0 0 2 0 [(0, 1), (1, 2)])) = some ⟨2, 0, 0, 2, 0, some 0x100⟩ ∧
      after State.storage (exec (.write 3) (state .producer false 2 0 0 2 0 [(0, 1), (1, 2)])) =
        some [(0, 3), (1, 2)] := by decide

/-- V-D9: the byte is not sign-extended; the index wraps as in V-D4. -/
theorem test_read_ends :
    seen (exec .read (reading (state .consumer true 3 1 2 4 3 [(2, 0xFF)]) .counted false 0xFF)) =
      some ⟨3, 1, 0, 4, 3, some 0x0FF⟩ := by decide

/-- V-D13, and the load of V-D2. -/
theorem test_read_empty_and_load :
    seen (exec .read (state .consumer true 4 0 0 0 0 [])) = some ⟨4, 0, 0, 0, 0, some 0x200⟩ ∧
      after State.cLatch (exec .read (state .consumer false 11 1 0 1 0 [(0, 26)])) = some 26 := by decide

/-- V-D14 and R68: the two faults of a data operation. -/
theorem test_data_faults :
    faultOf (exec (.write 1) (state .producer false 0 0 0 0 0 [])) = some .noCapacity ∧
      faultOf (exec .read (state .consumer false 0 0 0 0 0 [])) = some .noCapacity ∧
      faultOf (exec (.write 1) { state .producer false 20 16 0 16 0 [] with cfg := { config false with depth := 16 } }) =
        some .storageRange := by decide

/-- V-D16, V-D17: the pairs of R99 that are illegal for the data operations. -/
theorem test_illegal_ports :
    (∀ p ∈ [Port.consumer, .controller], seen (exec (.write 1) (state p true 4 0 0 0 0 [])) = some ⟨4, 0, 0, 0, 0, some 0x400⟩) ∧
      ∀ p ∈ [Port.producer, .controller], seen (exec .read (state p true 4 1 0 1 0 [])) = some ⟨4, 1, 0, 1, 0, some 0x400⟩ := by
  decide

/-! ### The machine -/

/-- V-L1 as the first command after reset. -/
theorem test_first_command : seen (step (State.reset.withFetchWord 16 0x00B)) = some ⟨11, 0, 0, 0, 0, some 0x000⟩ := by decide

/-- V-D15, first half, as the first command after reset: a hardened `WRITE` on the CREATED block. -/
theorem test_first_write : seen (step (State.reset.withFetchWord 16 0x51A)) = some ⟨0, 0, 0, 0, 0, some 0x100⟩ := by decide

theorem test_table_word : decodeTableWord 16 0x51A = some (.write 26) ∧ decodeTableWord 16 0x7A5 = some .flush := ⟨rfl, rfl⟩

/-! ### States that the witnesses use -/

namespace Tests

/-- Hardened, two of three elements in the queue, all agents at work. -/
def inUse : State :=
  asked (state .controller true 3 2 0 2 0 [(0, 1), (1, 2)]) [.issue 0x507 false] [.issue 0x600 false] [.issue 0x700 false]

/-- A `WRITE` and a `READ` both past their checks. -/
def bothChecked : State := reading (writing inUse .idle true 7) .idle true 0

/-- A `WRITE` that has stored and a `READ` that has loaded. -/
def bothMoved : State :=
  reading (writing (asked (state .controller true 3 2 0 2 0 [(0, 1), (1, 2), (2, 7)]) [] [] []) .stored false 7)
    .loaded false 1

/-- Unchecked; port P's agent has just been told that the queue is not full, port C's agent is about to ask. -/
def guardedUse : State :=
  { asked (state .controller false 3 2 0 2 0 [(0, 1), (1, 2)]) [.issueIfZero 0x507] (getRequests (config false)) [] with
    rsp := ⟨some ⟨.ok, 0⟩, none, none⟩, checks := ⟨.latest, .never, .never⟩ }

/-- Under STALE, port P may still be given the read count 0 and port C the write count 1, while 3 bytes were written and 1 read;
port X may be given any instant since the first write. -/
def staleUse (p : Port) : State :=
  { state p true 3 0 1 3 1 [(0, 1), (1, 2), (2, 3)] with
    cfg := { config true with view := .stale }
    views := ⟨[0], [1, 2], [⟨1, 0, 3⟩, ⟨2, 0, 3⟩, ⟨2, 1, 3⟩]⟩ }

/-- A check that a state in use passes only if it meets the invariant. -/
def invCheck (s : State) : Bool :=
  s.cfg.wf && Memory.wf s.storage &&
    s.storage.all (fun c => decide (s.cfg.storageBase ≤ c.1) && decide (c.1 < s.cfg.storageBase + s.cfg.depth)) &&
    decide (s.capacity < s.cfg.range) && decide (s.writeCount < s.cfg.range) && decide (s.readCount < s.cfg.range) &&
    decide (s.capacity ≤ capMax s.cfg) && decide (s.capacity ≠ 0) && decide (s.writeIndex < s.capacity) &&
    decide (s.readIndex < s.capacity) && (!s.pChecked || s.cfg.hardened && decide (s.pPhase = .idle)) &&
    (!s.cChecked || s.cfg.hardened && decide (s.cPhase = .idle)) &&
    (decide (s.cfg.view = .stale) || decide (s.views = .fresh)) &&
    (decide (s.rsp = ⟨none, none, none⟩) || decide (s.rsp = ⟨some ⟨.ok, 0⟩, none, none⟩))

theorem inv_of {s : State} (h : invCheck s = true) : s.Inv := by
  simp only [invCheck, Bool.and_eq_true, Bool.or_eq_true, Bool.not_eq_true', decide_eq_true_eq, List.all_eq_true] at h
  obtain ⟨⟨⟨⟨⟨⟨⟨⟨⟨⟨⟨⟨⟨h1, h2⟩, h3⟩, h4⟩, h5⟩, h6⟩, h7⟩, h8⟩, h9⟩, h10⟩, h11⟩, h12⟩, h13⟩, h14⟩ := h
  exact {
    cfg_wf := h1, storage_wf := h2, storage_within := h3, capacity_lt := h4, writeCount_lt := h5, readCount_lt := h6
    capacity_legal := fun _ => h7
    writeIndex_lt := Nat.lt_trans h9 h4, readIndex_lt := Nat.lt_trans h10 h4
    indices_lt := fun _ => ⟨h9, h10⟩
    created := fun h => absurd h h8
    pChecked_idle := fun h => h11.resolve_left (by simp [h])
    cChecked_idle := fun h => h12.resolve_left (by simp [h])
    views_sc := fun h => h13.resolve_left (by simp [h])
    responses_fit := by
      intro p r hr
      rcases h14 with h | h <;> rw [h] at hr <;> cases p <;> simp [PerPort.get] at hr
      subst hr
      exact ⟨Nat.two_pow_pos _, fun h => absurd rfl h⟩ }

theorem fits_of {s : State}
    (h : (s.reqs.producer ++ s.reqs.consumer ++ s.reqs.controller).all (fun q => decide (q.word < 2 ^ (3 + s.cfg.opw))) = true) :
    s.requestsFit := by
  intro p q hq
  have h := List.all_eq_true.mp h q (by cases p <;> simp_all [PerPort.get])
  simpa using h

/-- Being a state of a run in contract is no matter of the events to come. -/
theorem checked_withEvents {s : State} (h : s.Checked) (es : List Event) : (s.withEvents es).Checked :=
  ⟨⟨{ h.inv with }, { h.queue with }, h.capacity_le_depth, h.requests_fit⟩, { h.views_safe with }, h.agents⟩

theorem inUse_checked : inUse.Checked where
  inv := inv_of (by decide)
  queue := by constructor <;> decide
  views_safe := by
    constructor <;> first | decide | (unfold State.roomForP; decide) | (unfold State.dataForC; decide)
  capacity_le_depth := by decide
  agents := .inl rfl
  requests_fit := fits_of (by decide)

theorem bothChecked_checked : bothChecked.Checked where
  inv := inv_of (by decide)
  queue := by constructor <;> decide
  views_safe := by
    constructor <;> first | decide | (unfold State.roomForP; decide) | (unfold State.dataForC; decide)
  capacity_le_depth := by decide
  agents := .inl rfl
  requests_fit := fits_of (by decide)

theorem bothMoved_checked : bothMoved.Checked where
  inv := inv_of (by decide)
  queue := by constructor <;> decide
  views_safe := by
    constructor <;> first | decide | (unfold State.roomForP; decide) | (unfold State.dataForC; decide)
  capacity_le_depth := by decide
  agents := .inl rfl
  requests_fit := fits_of (by decide)

theorem guardedUse_checked : guardedUse.Checked where
  inv := inv_of (by decide)
  queue := by constructor <;> decide
  views_safe := by
    constructor <;> first | decide | (unfold State.roomForP; decide) | (unfold State.dataForC; decide)
  capacity_le_depth := by decide
  agents := .inr ⟨.inr ⟨by decide, by decide, rfl, fun _ => by unfold State.roomForP; decide⟩, .inl (by decide)⟩
  requests_fit := fits_of (by decide)

theorem staleUse_checked (p : Port) : (staleUse p).Checked where
  inv := by cases p <;> exact inv_of (by decide)
  queue := by cases p <;> constructor <;> decide
  views_safe := by
    cases p <;> constructor <;> first | decide | (unfold State.roomForP; decide) | (unfold State.dataForC; decide)
  capacity_le_depth := by cases p <;> decide
  agents := .inl rfl
  requests_fit := fits_of rfl

end Tests

/-! ### What the ports may be given late -/

/-- R81: after `WR2` and `RD2` the old count is one that the other data port may be given, and the old instant one that port X may
be (R144). -/
theorem test_stale_counts :
    after State.views (exec (.write 7) (writing (staleUse .producer) .stored false 7)) =
        some ⟨[0], [1, 2, 3], [⟨1, 0, 3⟩, ⟨2, 0, 3⟩, ⟨2, 1, 3⟩, ⟨3, 1, 3⟩]⟩ ∧
      after State.views (exec .read (reading (staleUse .consumer) .loaded false 2)) =
        some ⟨[0, 1], [1, 2], [⟨1, 0, 3⟩, ⟨2, 0, 3⟩, ⟨2, 1, 3⟩, ⟨3, 1, 3⟩]⟩ := by decide

/-- After `FLUSH` (R131), `INIT` (R123) and reset (R41) no port is given anything late (notes/assumptions/16.md). -/
theorem test_stale_clears :
    after State.views (exec .flush (staleUse .controller)) = some .fresh ∧
      after State.views (exec (.init 2) (staleUse .controller)) = some .fresh ∧
      after State.views (step ((staleUse .controller).withEvents [.reset])) = some .fresh := by decide

/-! ### Witnesses: each statement's hypotheses can be met, at the ends of their ranges -/

theorem witness_OperationCodesAtEveryWidth :
    255 < 2 ^ Config.reference.opw ∧ 0 < 2 ^ Config.reference.opw ∧ 4095 < 2 ^ (Config.opw { Config.reference with w := 12 }) := by
  decide

theorem witness_DecodeOfEncodeIsTheOperation :
    (Instr.init 255).wf Config.reference = true ∧ (Instr.init 4095).wf { Config.reference with w := 12 } = true ∧
      (Instr.write 255).wf { Config.reference with w := 1 } = true := by decide

theorem witness_EveryCommandWordDecodes :
    2047 < 2 ^ (3 + Config.reference.opw) ∧ 2 ^ (3 + Config.reference.opw) ≤ 2048 := by decide

theorem witness_ResponsesAreReadBackFromTheirWords :
    255 < 2 ^ Config.reference.opw ∧ (5 ≤ 5 ∧ 5 ≤ 7) ∧ 5 ≤ 7 ∧ 7 ≤ 7 := by decide

/-- Every clause: legal capacities at both ends, an unchecked 0, refused capacities at both ends, and the wrong ports. -/
theorem witness_InitInstallsTheCapacity :
    (∀ h ∈ [true, false], (state .controller h 4 3 1 7 5 []).port = .controller ∧
      (state .controller h 4 3 1 7 5 []).inFlight .producer = false ∧
      (state .controller h 4 3 1 7 5 []).inFlight .consumer = false) ∧
    (∀ c ∈ [1, 255], 1 ≤ c ∧ c ≤ 2 ^ (config true).w - 1 ∧ c ≤ (config true).depth) ∧
    (∀ c ∈ [0, 256], ¬(1 ≤ c ∧ c ≤ 2 ^ (config true).w - 1 ∧ c ≤ (config true).depth)) ∧
    (config false).hardened ≠ true ∧ (config true).hardened = true ∧
    ∀ p ∈ [Port.producer, .consumer], (state p true 4 0 0 0 0 []).port ≠ .controller := by decide

theorem witness_InvalidCapacityRaisedExactly :
    (state .controller true 4 3 1 7 5 []).port = .controller ∧
      (state .controller true 4 3 1 7 5 []).inFlight .producer = false ∧
      (state .controller true 4 3 1 7 5 []).inFlight .consumer = false ∧
      (state .controller true 4 3 1 7 5 []).cfg.hardened = true ∧
      ∀ c ∈ [0, 256], ¬(1 ≤ c ∧ c ≤ min (2 ^ (config true).w - 1) (config true).depth) := by decide

theorem witness_FlushClearsTheFourFields :
    (∀ cap ∈ [0, 4, 255], (state .controller true cap 0 0 0 0 []).port = .controller ∧
      (state .controller true cap 0 0 0 0 []).inFlight .producer = false ∧
      (state .controller true cap 0 0 0 0 []).inFlight .consumer = false) ∧
    ∀ p ∈ [Port.producer, .consumer], (state p true 4 1 0 1 0 []).port ≠ .controller := by decide

/-- Every way to be inside a data operation. -/
theorem witness_LifecycleNeedsExclusiveAccess :
    inUse.port = .controller ∧
      (∀ a ∈ [(WritePhase.idle, true), (.stored, false), (.counted, false)],
        (writing inUse a.1 a.2 7).inFlight .producer = true) ∧
      ∀ a ∈ [(ReadPhase.idle, true), (.loaded, false), (.counted, false)],
        (reading inUse a.1 a.2 7).inFlight .consumer = true := by decide

theorem witness_FlushTwiceIsFlushOnce :
    ∀ cap ∈ [1, 255], (state .controller true cap 0 0 0 0 []).port = .controller ∧ cap < 2 ^ (config true).w ∧
      ((config true).hardened = true → 1 ≤ cap ∧ cap ≤ (config true).depth) ∧
      ∃ t, exec .flush (state .controller true cap 0 0 0 0 []) = .next t := by
  intro cap h
  simp at h
  rcases h with rfl | rfl <;> exact ⟨by decide, by decide, by decide, _, rfl⟩

/-- Both views, for the four query statements and the snapshots, on each port. -/
theorem witness_IsemptyAnswers : (state .consumer true 3 2 0 2 0 []).cfg.view = .sc := by decide

theorem witness_IsfullAnswers : (state .producer true 3 2 0 2 0 []).cfg.view = .sc := by decide

theorem witness_AvaildataAnswers : (state .consumer true 3 2 0 2 0 []).cfg.view = .sc := by decide

theorem witness_AvailspaceAnswers : (state .producer true 3 2 0 2 0 []).cfg.view = .sc := by decide

theorem witness_QueriesChangeNothing :
    ∀ i ∈ [Instr.isempty, .isfull, .availdata, .availspace],
      i = .isempty ∨ i = .isfull ∨ i = .availdata ∨ i = .availspace := by decide

theorem witness_SnapshotsGiveAllowedValues :
    inUse.cfg.view = .sc ∧ ∀ p ∈ [Port.producer, .consumer, .controller],
      (staleUse p).cfg.view = .stale ∧ (staleUse p).port = p := by decide

theorem witness_DataAndSpaceAddUpToCapacity :
    (∀ cap ∈ [0, 255], cap < 2 ^ (config true).w) ∧
      (state .controller true 22 0 0 22 0 []).occupied ≤ (state .controller true 22 0 0 22 0 []).capacity := by decide

/-- The micro-steps: the check at the last free element, the store checked and unchecked at slots 0 and `DEPTH - 1`. -/
theorem witness_WriteMicroSteps :
    (state .producer true 3 2 0 2 0 []).port = .producer ∧ (state .producer true 3 2 0 2 0 []).pPhase = .idle ∧
      (state .producer true 3 2 0 2 0 []).pChecked = false ∧ (state .producer true 3 2 0 2 0 []).cfg.hardened = true ∧
      (state .producer true 3 2 0 2 0 []).givenOccupied < (state .producer true 3 2 0 2 0 []).given.capacity ∧
      (state .producer true 3 2 0 2 0 []).capacity ≠ 0 ∧
      (writing (state .producer true 3 2 0 2 0 []) .idle true 7).pChecked = true ∧
      (∀ i ∈ [0, 255], (state .producer false 255 i 0 i 0 []).writeIndex < (config false).depth) ∧
      (state .producer false 255 0 0 0 0 []).cfg.hardened = false ∧ (state .producer false 255 0 0 0 0 []).capacity ≠ 0 ∧
      (writing (state .producer true 3 2 0 2 0 []) .stored false 7).pPhase = .stored ∧
      (writing (state .producer true 1 0 0 1 0 []) .counted false 7).pPhase = .counted ∧
      (writing (state .producer true 1 0 0 1 0 []) .counted false 7).capacity ≠ 0 := by decide

/-- The outputs: a port without a response, one with a response of the largest value, and the view SC. -/
theorem witness_OutputsFollowTheRegisters :
    (state .controller true 3 2 0 2 0 []).rsp.get .consumer = none ∧
      ((state .controller true 3 2 0 2 0 []).respond .ok 255).rsp.get .controller = some ⟨.ok, 255⟩ ∧
      (state .controller true 3 2 0 2 0 []).cfg.view = .sc := by decide

/-- The micro-steps: the check at the last element, the load checked and unchecked at slots 0 and `DEPTH - 1`. -/
theorem witness_ReadMicroSteps :
    (state .consumer true 3 1 0 1 0 []).port = .consumer ∧ (state .consumer true 3 1 0 1 0 []).cPhase = .idle ∧
      (state .consumer true 3 1 0 1 0 []).cChecked = false ∧ (state .consumer true 3 1 0 1 0 []).cfg.hardened = true ∧
      (state .consumer true 3 1 0 1 0 []).givenOccupied ≠ 0 ∧
      (state .consumer true 3 1 0 1 0 []).capacity ≠ 0 ∧
      (reading (state .consumer true 3 1 0 1 0 []) .idle true 0).cChecked = true ∧
      (∀ i ∈ [0, 255], (state .consumer false 255 0 i 0 i []).readIndex < (config false).depth) ∧
      (state .consumer false 255 0 0 0 0 []).cfg.hardened = false ∧ (state .consumer false 255 0 0 0 0 []).capacity ≠ 0 ∧
      (reading (state .consumer true 3 1 0 1 0 []) .loaded false 7).cPhase = .loaded ∧
      (reading (state .consumer true 1 0 0 1 1 []) .counted false 7).cPhase = .counted ∧
      (reading (state .consumer true 1 0 0 1 1 []) .counted false 7).capacity ≠ 0 := by decide

/-- In both modes; hardened with one free element. -/
theorem witness_WriteAloneStoresCountsAndAdvances :
    ∀ h ∈ [true, false],
      (state .producer h 3 2 0 2 0 []).port = .producer ∧ (state .producer h 3 2 0 2 0 []).cfg.view = .sc ∧
      (state .producer h 3 2 0 2 0 []).inFlight .producer = false ∧ (state .producer h 3 2 0 2 0 []).capacity ≠ 0 ∧
      (state .producer h 3 2 0 2 0 []).writeIndex < (config h).depth ∧
      ((config h).hardened = true → (state .producer h 3 2 0 2 0 []).occupied < 3) := by decide

/-- In both modes; hardened with one element. -/
theorem witness_ReadAloneLoadsCountsAndAdvances :
    ∀ h ∈ [true, false],
      (state .consumer h 3 1 0 1 0 []).port = .consumer ∧ (state .consumer h 3 1 0 1 0 []).cfg.view = .sc ∧
      (state .consumer h 3 1 0 1 0 []).inFlight .consumer = false ∧ (state .consumer h 3 1 0 1 0 []).capacity ≠ 0 ∧
      (state .consumer h 3 1 0 1 0 []).readIndex < (config h).depth ∧
      ((config h).hardened = true → (state .consumer h 3 1 0 1 0 []).occupied ≠ 0) := by decide

theorem witness_WriteMutatesOnlyWriterOwnedState :
    ∃ t, exec (.write 7) (state .producer false 3 2 0 2 0 []) = .next t := ⟨_, rfl⟩

theorem witness_ReadMutatesOnlyReaderOwnedState :
    ∃ t, exec .read (state .consumer false 3 2 0 2 0 [(0, 1)]) = .next t := ⟨_, rfl⟩

/-- The check refuses at `occupied = capacity`. -/
theorem witness_FullRaisedExactly :
    (state .producer true 2 0 0 2 0 []).port = .producer ∧ (state .producer true 2 0 0 2 0 []).cfg.hardened = true ∧
      (state .producer true 2 0 0 2 0 []).inFlight .producer = false ∧
      (state .producer true 2 0 0 2 0 []).given.capacity ≤ (state .producer true 2 0 0 2 0 []).givenOccupied := by
  decide

theorem witness_EmptyRaisedExactly :
    (state .consumer true 2 1 1 1 1 []).port = .consumer ∧ (state .consumer true 2 1 1 1 1 []).cfg.hardened = true ∧
      (state .consumer true 2 1 1 1 1 []).inFlight .consumer = false ∧
      (state .consumer true 2 1 1 1 1 []).givenOccupied = 0 := by decide

/-- The eight illegal pairs of V-E9, and one legal one. -/
theorem witness_IllegalPortExactlyByTheTable :
    (∀ p ∈ [Port.producer, .consumer], p ≠ .controller) ∧ (∀ p ∈ [Port.consumer, .controller], p ≠ .producer) ∧
      (∀ p ∈ [Port.producer, .controller], p ≠ .consumer) ∧ legalOn .flush .controller = true := by decide

/-- The four errors: each a state in which a micro-step ends so. -/
theorem witness_ErrorsChangeNothing :
    endsWith (.write 3) (state .producer true 2 0 0 2 0 []) ⟨.full, 0⟩ ∧
      endsWith .read (state .consumer true 2 1 1 1 1 []) ⟨.empty, 0⟩ ∧
      endsWith (.init 0) (state .controller true 4 3 1 7 5 []) ⟨.invalidCapacity, 0⟩ ∧
      endsWith .flush (state .producer true 4 3 1 7 5 []) ⟨.illegalPort, 0⟩ :=
  ⟨⟨_, rfl, rfl, rfl⟩, ⟨_, rfl, rfl, rfl⟩, ⟨_, rfl, rfl, rfl⟩, ⟨_, rfl, rfl, rfl⟩⟩

/-- V-D10, and the largest capacity. -/
theorem witness_UncheckedWriteOnFullOverwritesTheOldest :
    ∀ c ∈ [2, 255],
      (state .producer false c 0 0 c 0 []).port = .producer ∧ (state .producer false c 0 0 c 0 []).cfg.hardened = false ∧
      (state .producer false c 0 0 c 0 []).inFlight .producer = false ∧ c ≠ 0 ∧
      c < 2 ^ (config false).w ∧
      (state .producer false c 0 0 c 0 []).writeIndex < (config false).depth ∧
      (state .producer false c 0 0 c 0 []).occupied = c ∧
      (state .producer false c 0 0 c 0 []).writeIndex = (state .producer false c 0 0 c 0 []).readIndex := by decide

/-- V-D12, and the largest capacity. -/
theorem witness_UncheckedReadOnEmptyReturnsTheStaleByte :
    ∀ c ∈ [1, 255],
      (state .consumer false c 0 0 0 0 []).port = .consumer ∧ (state .consumer false c 0 0 0 0 []).cfg.hardened = false ∧
      (state .consumer false c 0 0 0 0 []).inFlight .consumer = false ∧ 1 ≤ (config false).w ∧ c ≠ 0 ∧
      c < 2 ^ (config false).w ∧ (state .consumer false c 0 0 0 0 []).readIndex < (config false).depth ∧
      (state .consumer false c 0 0 0 0 []).occupied = 0 := by decide

/-- V-D14, the capacity 0 in the other micro-steps that read it, and a slot at `DEPTH`, for both operations. -/
theorem witness_DataOperationsFaultWithoutASlot :
    (state .producer false 0 0 0 0 0 []).pPhase = .idle ∧ (state .producer false 0 0 0 0 0 []).cfg.hardened = false ∧
      (state .producer false 0 0 0 0 0 []).capacity = 0 ∧
      (writing (state .producer false 0 0 0 0 0 []) .counted false 7).pPhase = .counted ∧
      (state .producer false 255 256 0 0 0 []).capacity ≠ 0 ∧ (config false).depth ≤ 256 ∧
      (writing (state .producer true 255 256 0 0 0 []) .idle true 7).pChecked = true ∧
    (state .consumer false 0 0 0 0 0 []).cPhase = .idle ∧ (state .consumer false 0 0 0 0 0 []).capacity = 0 ∧
      (state .consumer true 0 0 0 1 0 []).cfg.hardened = true ∧ (state .consumer true 0 0 0 1 0 []).cChecked = false ∧
      (state .consumer true 0 0 0 1 0 []).givenOccupied ≠ 0 ∧ (state .consumer true 0 0 0 1 0 []).capacity = 0 ∧
      (reading (state .consumer false 0 0 0 0 0 []) .counted false 7).cPhase = .counted ∧
      (state .consumer false 255 0 256 0 0 []).capacity ≠ 0 ∧
      (reading (state .consumer true 255 0 256 0 0 []) .idle true 7).cChecked = true := by decide

/-- From the start of a hardened `WRITE`, and from inside a `READ`. -/
theorem witness_OperationsEndWithinFourMicroSteps :
    ({ inUse with port := .producer }).Inv ∧ ({ inUse with port := .producer }).inFlight .producer = false ∧
      (∃ t, finish 4 (.write 7) { inUse with port := .producer } = .next t) ∧
      ({ bothMoved with port := .consumer }).Inv ∧
      ({ bothMoved with port := .consumer }).inFlightInstr .consumer = some .read ∧
      ∃ t, finish 4 .read { bothMoved with port := .consumer } = .next t :=
  ⟨{ inUse_checked.inv with }, by decide, ⟨_, rfl⟩, { bothMoved_checked.inv with }, by decide, ⟨_, rfl⟩⟩

/-- The four ways a turn runs a command. -/
theorem witness_StepRunsTheDecodedCommand :
    inUse.inFlight .producer = false ∧ inUse.reqs.get .producer = [.issue 0x507 false] ∧
      decode inUse.cfg 0x507 = .ok (.write 7) ∧ guardedUse.inFlight .producer = false ∧
      guardedUse.reqs.get .producer = [.issueIfZero 0x507] ∧ guardedUse.rsp.get .producer = some ⟨.ok, 0⟩ ∧
      decode guardedUse.cfg 0x507 = .ok (.write 7) ∧ bothMoved.inFlight .producer = true ∧
      bothMoved.inFlight .consumer = true ∧ (inUse.withEvents [.turn .producer]).events = [.turn .producer] :=
  ⟨rfl, rfl, rfl, rfl, rfl, rfl, rfl, rfl, rfl, rfl⟩

/-- The four steps without a command; the word is the first one that is too wide. -/
theorem witness_StepsWithoutACommand :
    inUse.events = [] ∧ bothMoved.reqs.get .controller = [] ∧ bothMoved.inFlight .controller = false ∧
      (asked inUse [] [.issueIfZero 0x600] []).reqs.get .consumer = [.issueIfZero 0x600] ∧
      (asked inUse [] [.issueIfZero 0x600] []).rsp.get .consumer ≠ some ⟨.ok, 0⟩ ∧
      (asked inUse [.issue 2048 false] [] []).reqs.get .producer = [.issue 2048 false] ∧
      (asked inUse [.issue 2048 false] [] []).inFlight .producer = false ∧ 2 ^ (3 + inUse.cfg.opw) ≤ 2048 := by decide

theorem witness_ResetEventRestoresTheCreatedState :
    (bothMoved.withEvents [.reset]).events = .reset :: [] ∧
      (guardedUse.withEvents [.reset, .turn .producer]).events = .reset :: .turn .producer :: [] ∧
      guardedUse.reqs.get .producer = [.issueIfZero 0x507] := ⟨rfl, rfl, rfl⟩

/-- An unchecked `WRITE` over a byte of another value. -/
theorem witness_MemoryChangesOnlyWhenWriteStores :
    ∃ t, step ((asked (state .producer false 2 0 0 2 0 [(0, 1), (1, 2)]) [.issue 0x503 false] [] []).withEvents [.turn .producer]) =
        .next t ∧
      Memory.readByte t.storage 0 ≠ Memory.readByte [(0, 1), (1, 2)] 0 := ⟨_, rfl, by decide⟩

/-- Reset, and an `INIT`. -/
theorem witness_OnlyInitAndResetChangeTheCapacity :
    (∃ t, step (inUse.withEvents [.reset]) = .next t ∧ t.capacity ≠ inUse.capacity) ∧
      ∃ t, step ((asked inUse [] [] [.issue 0x00B false]).withEvents [.turn .controller]) = .next t ∧
        t.capacity ≠ inUse.capacity := ⟨⟨_, rfl, by decide⟩, ⟨_, rfl, by decide⟩⟩

/-- A turn of each port; port X with a command that is no lifecycle operation. -/
theorem witness_PortsWriteOnlyWhatTheyOwn :
    (∃ t, step (bothMoved.withEvents [.turn .producer]) = .next t) ∧
      (∃ t, step (bothMoved.withEvents [.turn .consumer]) = .next t) ∧
      (∃ t, step ((asked inUse [] [] [.issue 0x300 false]).withEvents [.turn .controller]) = .next t) ∧
      ((asked inUse [] [] [.issue 0x300 false]).withEvents [.turn .controller]).nextCommand .controller = some .availdata :=
  ⟨⟨_, rfl⟩, ⟨_, rfl⟩, ⟨_, rfl⟩, rfl⟩

/-- A full queue, and one with room for one more. -/
theorem witness_PutWritesOnlyWhenNotFull :
    ∀ n ∈ [2, 3],
      (asked (state .producer true 3 0 0 n 0 []) (putRequests (config true) 7) [] []).cfg.view = .sc ∧
      (asked (state .producer true 3 0 0 n 0 []) (putRequests (config true) 7) [] []).inFlight .producer = false ∧
      (asked (state .producer true 3 0 0 n 0 []) (putRequests (config true) 7) [] []).reqs.producer =
        putRequests (config true) 7 ++ [] ∧
      (asked (state .producer true 3 0 0 n 0 []) (putRequests (config true) 7) [] []).fullFlag = decide (n = 3) := by
  decide

/-- An empty queue, and one with one element. -/
theorem witness_GetReadsOnlyWhenNotEmpty :
    ∀ n ∈ [0, 1],
      (asked (state .consumer true 3 0 0 n 0 []) [] (getRequests (config true)) []).cfg.view = .sc ∧
      (asked (state .consumer true 3 0 0 n 0 []) [] (getRequests (config true)) []).inFlight .consumer = false ∧
      (asked (state .consumer true 3 0 0 n 0 []) [] (getRequests (config true)) []).reqs.consumer =
        getRequests (config true) ++ [] ∧
      (asked (state .consumer true 3 0 0 n 0 []) [] (getRequests (config true)) []).emptyFlag = decide (n = 0) := by
  decide

theorem witness_CounterIncrementWraps : 254 + 1 < 2 ^ (config true).w ∧ (config true).w = 8 := by decide

theorem witness_IndexAdvanceWrapsAtCapacity :
    (0 < 1 ∧ 1 ≤ 2 ^ (config true).w - 1) ∧ 254 < 255 ∧ 255 ≤ 2 ^ (config true).w - 1 := by decide

theorem witness_ModularSubtraction :
    0 < 2 ^ (config true).w ∧ 255 < 2 ^ (config true).w ∧ 0 ≤ 255 ∧ 0 < 255 ∧ (config true).w = 8 := by decide

theorem witness_StoreIsReadBackAndKeepsTheForm :
    (1 : Nat) ≠ 0 ∧ Memory.wf [(0, 1), (2, 3)] = true ∧ Memory.wf [] = true := by decide

theorem witness_EveryStepKeepsTheInvariant :
    (bothMoved.withEvents [.turn .consumer]).Inv ∧ ∃ t, step (bothMoved.withEvents [.turn .consumer]) = .next t :=
  ⟨{ bothMoved_checked.inv with }, ⟨_, rfl⟩⟩

theorem witness_ResetMeetsTheInvariant :
    Config.reference.wf = true ∧ Config.wf { Config.reference with w := 1, depth := 1 } = true := by decide

/-- 256 writes into a queue of capacity 3 (V-A7, unchecked), and a turn of port P that commits the next. -/
theorem witness_CountersAndIndicesTrackTheOperations :
    State.Inv ((writing (state .producer false 3 1 0 0 0 []) .stored false 7).withEvents [.turn .producer]) ∧
      State.Tracks ((writing (state .producer false 3 1 0 0 0 []) .stored false 7).withEvents [.turn .producer]) 256 0 ∧
      ∃ t, step ((writing (state .producer false 3 1 0 0 0 []) .stored false 7).withEvents [.turn .producer]) = .next t :=
  ⟨inv_of (by decide), ⟨by decide, by decide, by decide, by decide⟩, ⟨_, rfl⟩⟩

/-- The largest count that is exact, after a wrap. -/
theorem witness_OccupancyIsTheUnreadCountModuloRange :
    State.Tracks (state .controller true 255 1 1 0 1 []) 256 1 ∧ 1 ≤ 256 ∧ 256 - 1 ≤ 2 ^ (config true).w - 1 :=
  ⟨⟨by decide, by decide, by decide, by decide⟩, by decide, by decide⟩

/-- A full queue of capacity 3. -/
theorem witness_SlotsCoincideWhenCapacityDividesTheCount :
    (state .controller true 3 1 1 4 1 []).capacity ≠ 0 ∧ State.Tracks (state .controller true 3 1 1 4 1 []) (1 + 3) 1 :=
  ⟨by decide, ⟨by decide, by decide, by decide, by decide⟩⟩

theorem witness_HardenedStepsStayInContract :
    (inUse.withEvents [.turn .producer]).Checked ∧ (inUse.withEvents [.turn .producer]).cfg.hardened = true ∧
      ∃ t, step (inUse.withEvents [.turn .producer]) = .next t :=
  ⟨checked_withEvents inUse_checked _, rfl, ⟨_, rfl⟩⟩

/-- An unchecked `WRITE` with no check before it, into a queue with room for one more, is in contract. -/
theorem writeUse_inContract :
    runInContract 2 ((asked (state .controller false 3 2 0 2 0 [(0, 1), (1, 2)]) [.issue 0x507 false] [] []).withEvents
      [.turn .producer, .turn .producer]) := by
  refine ⟨fun p es h _ i hi _ => ?_, fun t ht => ⟨fun p es h hf => ?_, fun _ _ => trivial⟩⟩
  · simp at h
    obtain ⟨rfl, -⟩ := h
    have h' : some (Instr.write 7) = some i := hi
    cases h'
    show State.fullFlag _ = false
    decide
  · cases ht
    simp at h
    obtain ⟨rfl, -⟩ := h
    cases hf

/-- An unchecked block and its agents without checks, one whose agents guard, and a controller that is about to flush. -/
theorem witness_RunsInContractMeetNoFault :
    (∃ s : State, s.Sound ∧ s.cfg.hardened = false ∧ runInContract 2 s) ∧
    (guardedUse.withEvents [.turn .producer]).Checked ∧
      (guardedUse.withEvents [.turn .producer]).controllerInContract ∧
      (inUse.withEvents [.turn .controller]).Checked ∧ (inUse.withEvents [.turn .controller]).controllerInContract :=
  ⟨⟨_, ⟨inv_of (by decide), by constructor <;> decide, by decide, fits_of (by decide)⟩, rfl,
      writeUse_inContract⟩,
    checked_withEvents guardedUse_checked _, fun _ h => by simp at h,
    checked_withEvents inUse_checked _, fun _ _ => ⟨fun c h => by
      have h' : some Instr.flush = some (Instr.init c) := h
      simp at h', fun _ => ⟨rfl, rfl⟩⟩⟩

/-- Port P's agent has been told that the queue is not full and has the turn. -/
theorem witness_GuardedStepsAreInContract :
    (guardedUse.withEvents [.turn .producer]).Checked ∧ (guardedUse.withEvents [.turn .producer]).producerDisciplined ∧
      (guardedUse.withEvents [.turn .producer]).consumerDisciplined ∧
      (guardedUse.withEvents [.turn .producer]).controllerInContract ∧
      (guardedUse.withEvents [.turn .producer]).nextCommand .producer = some (.write 7) := by
  have h := checked_withEvents guardedUse_checked [.turn .producer]
  have ha := h.agents.resolve_left (by decide)
  exact ⟨h, ha.1, ha.2, fun _ h => by simp at h, rfl⟩

/-- Between the answer of `PUT`'s query and its `WRITE`, and between a check and a plain `WRITE` said to rely on it, port P is not
quiescent (R12). -/
theorem test_not_quiescent :
    guardedUse.quiescent .producer = false ∧
      ({ asked inUse [.issue 0x507 true] [] [] with checks := ⟨.earlier, .never, .never⟩ } : State).quiescent .producer = false := by
  decide

/-- It is quiescent (R12) before a `WRITE` that relies on no check, with the check still to come, with a query guarded or said to
rely on the check, and when the `OK 0` is the answer of a `WRITE`. -/
theorem test_quiescent :
    (∀ r ∈ [[.issue 0x507 false], [.issue 0x400 false, .issue 0x507 true], [.issueIfZero 0x200], [.issue 0x300 true]],
        ({ guardedUse with reqs := ⟨r, [], []⟩ } : State).quiescent .producer = true) ∧
      ({ guardedUse with checks := ⟨.earlier, .never, .never⟩ } : State).quiescent .producer = true := by decide

theorem witness_ResetIsInContract :
    Config.reference.wf = true ∧ Config.wf { Config.reference with w := 1, depth := 1, view := .stale } = true := by decide

/-- The step that commits a `WRITE`, and the one that commits a `READ`. -/
theorem witness_StepRefinesTheAbstractQueue :
    (∀ p ∈ [Port.producer, .consumer], (bothMoved.withEvents [.turn p]).Checked ∧
      (bothMoved.withEvents [.turn p]).controllerInContract ∧ (bothMoved.withEvents [.turn p]).inContract ∧
      ∃ t, step (bothMoved.withEvents [.turn p]) = .next t) ∧
    (bothMoved.withEvents [.turn .producer]).commit = .push 7 ∧
      (bothMoved.withEvents [.turn .consumer]).commit = .pop 1 := by
  refine ⟨fun p h => ⟨checked_withEvents bothMoved_checked _, ?_, ?_, ?_⟩, by decide, by decide⟩
  · intro es he
    simp at he h
    simp [he] at h
  · intro q es he hf
    simp at he h
    obtain ⟨rfl, -⟩ := he
    rcases h with rfl | rfl <;> cases hf
  · simp at h
    rcases h with rfl | rfl <;> exact ⟨_, rfl⟩

/-- A run of two steps that commits a `READ` and a `WRITE`, and one of a block without checks. -/
theorem witness_RunsAreFirstInFirstOut :
    (∃ s t : State, s.Sound ∧ runInContract 2 s ∧ Host.Core.run Sys2Proof.core 2 s = .next t ∧ neverCleared 2 s = true) ∧
    (bothMoved.withEvents [.turn .consumer, .turn .producer]).Checked ∧
      (bothMoved.withEvents [.turn .consumer, .turn .producer]).cfg.hardened = true ∧
      (∃ t, Host.Core.run Sys2Proof.core 2 (bothMoved.withEvents [.turn .consumer, .turn .producer]) = .next t) ∧
      neverCleared 2 (bothMoved.withEvents [.turn .consumer, .turn .producer]) = true :=
  ⟨⟨_, _, ⟨inv_of (by decide), by constructor <;> decide, by decide, fits_of (by decide)⟩,
      writeUse_inContract, rfl, by decide⟩,
    checked_withEvents bothMoved_checked _, rfl, ⟨_, rfl⟩, by decide⟩

/-- With late values to be given; the one snapshot of an empty queue with nothing late shows port P room. -/
theorem witness_LateViewsOnlyRefuse :
    (∀ p : Port, (staleUse p).Checked ∧ (staleUse p).port = p) ∧
      inUse.Checked ∧ ({ inUse with port := .producer } : State).givenOccupied <
        ({ inUse with port := .producer } : State).given.capacity :=
  ⟨fun p => ⟨staleUse_checked p, by cases p <;> rfl⟩, inUse_checked, by decide⟩

theorem witness_OtherPortCannotRevokeALicence :
    (∃ t, (bothMoved.withEvents [.turn .consumer]).Sound ∧ step (bothMoved.withEvents [.turn .consumer]) = .next t) ∧
      ∃ t, (bothMoved.withEvents [.turn .producer]).Sound ∧ step (bothMoved.withEvents [.turn .producer]) = .next t :=
  ⟨⟨_, (checked_withEvents bothMoved_checked _).toSound, rfl⟩, ⟨_, (checked_withEvents bothMoved_checked _).toSound, rfl⟩⟩

theorem witness_InFlightMicroStepsCommute :
    bothMoved.Sound ∧ bothMoved.inFlight .producer = true ∧ bothMoved.inFlight .consumer = true ∧
      bothChecked.Sound ∧ bothChecked.inFlight .producer = true ∧ bothChecked.inFlight .consumer = true :=
  ⟨bothMoved_checked.toSound, rfl, rfl, bothChecked_checked.toSound, rfl, rfl⟩

/-- An empty queue, and a full one. -/
theorem witness_SameSlotRaceAdmitsBothBytes :
    ∀ n ∈ [0, 2],
      (state .producer false 2 0 0 n 0 []).cfg.hardened = false ∧
      (state .producer false 2 0 0 n 0 []).inFlight .producer = false ∧
      (state .producer false 2 0 0 n 0 []).inFlight .consumer = false ∧
      (state .producer false 2 0 0 n 0 []).capacity ≠ 0 ∧
      (state .producer false 2 0 0 n 0 []).writeIndex < (config false).depth ∧
      (state .producer false 2 0 0 n 0 []).readIndex = (state .producer false 2 0 0 n 0 []).writeIndex := by decide

end Sys2Proof.Machine
end

section
/-! PROOF. Which step changes a byte of memory (20_memory.md R69, R61): one lemma for a micro-step, one for a step of the
machine, and from them the statement about bytes. -/

namespace Sys2Proof.Machine

variable {s t : State}

/-- The one address where a store can change the byte. -/
theorem Memory.eq_of_readByte_writeByte_ne {m : Memory} {a b : Nat} {v : Byte}
    (h : Memory.readByte (Memory.writeByte m a v) b ≠ Memory.readByte m b) : b = a :=
  not_imp_comm.mp (Memory.readByte_writeByte_other m v) h

/-- A micro-step leaves the storage, or it is the `WR1` of a `WRITE` on port P. -/
theorem exec_storage {i : Instr} (he : exec i s = .next t) :
    t.storage = s.storage ∨ ∃ v, s.port = .producer ∧ s.pPhase = .idle ∧ t = s.afterWR1 v := by
  cases exec_did he
  case wr1 v hp hi _ _ _ e => exact .inr ⟨v, hp, hi, e⟩
  case wr1Unchecked v hp hi _ _ _ e => exact .inr ⟨v, hp, hi, e⟩
  all_goals exact .inl (by subst t; simp)

/-- A step of the machine leaves the storage, or it is port P's turn and stores the byte its latch then holds. -/
theorem step_storage (h : step s = .next t) :
    t.storage = s.storage ∨
    ((∃ es, s.events = .turn .producer :: es) ∧ s.pPhase = .idle ∧ t.pPhase = .stored ∧
      t.storage = s.storedAt s.writeIndex t.pLatch) := by
  rcases step_next h with ⟨-, rfl⟩ | ⟨es, -, rfl⟩ | ⟨p, es, hev, -⟩
  · exact .inl rfl
  · exact .inl (by simp)
  · obtain ⟨u, hu, hact⟩ := turn_next hev h
    have hstorage : u.storage = s.storage := by rw [hu]
    rcases hact with ⟨rfl, -, -⟩ | ⟨i, hx, -⟩
    · exact .inl hstorage
    · rcases exec_storage hx with hs | ⟨v, hport, hidle, rfl⟩
      · exact .inl (hs.trans hstorage)
      · obtain rfl : p = .producer := by rw [← hport, hu]
        have hphase : u.pPhase = s.pPhase := by rw [hu]
        have hstored : u.storedAt u.writeIndex v = s.storedAt s.writeIndex v := by rw [hu]; rfl
        exact .inr ⟨⟨es, hev⟩, hphase ▸ hidle, rfl, hstored⟩

/-- Settles O37: a byte that differs after a step lies where `step_storage` says that the step stored. -/
theorem memoryChangesOnlyWhenWriteStores : Obligations.MemoryChangesOnlyWhenWriteStores := by
  intro s t a h hne
  rcases step_storage h with hs | ⟨hev, hidle, hphase, hs⟩
  · exact absurd (by rw [hs]) hne
  · rw [hs] at hne ⊢
    obtain rfl := Memory.eq_of_readByte_writeByte_ne hne
    exact ⟨hev, hidle, rfl, hphase, Memory.readByte_writeByte_same _ _ _⟩

end Sys2Proof.Machine
end

section
/-! PROOF. The operation codes with their operands at every width (30_encoding.md R93, R98): a word made of a code and an
operand is decoded field by field, and an operation without an operand has its code alone as its word. -/

namespace Sys2Proof

/-- The decoder takes the code and the operand out of the word made of them. -/
theorem decode_word (cfg : Config) {k x : Nat} (hk : k < 8) (hx : x < 2 ^ cfg.opw) :
    decode cfg (k * 2 ^ cfg.opw + x) = decodeFields k x := by
  obtain ⟨-, hcode, hoperand⟩ := Laws.EncodeFits.word_fields cfg hk hx
  rw [decode, hcode, hoperand]

/-- Where the operand field is zero, the word is the code alone. -/
theorem encode_of_operand_zero (cfg : Config) {i : Instr} (h : i.operand = 0) :
    encode cfg i = i.opcode * 2 ^ cfg.opw := by
  rw [encode, h, Nat.add_zero]

/-- The byte of `WRITE` is the low eight bits of the operand field, `operand[7:0]` (R96). -/
theorem decodeFields_write (x : Nat) : decodeFields 5 x = .ok (.write (BitVec.ofNat 8 (x % 2 ^ 8))) := by
  have hbyte : BitVec.ofNat 8 (x % 2 ^ 8) = BitVec.ofNat 8 x := BitVec.eq_of_toNat_eq (by simp)
  rw [hbyte]
  rfl

/-- Settles O2: `decode_word` reduces each decoding to the row of its code, `encode_of_operand_zero` each encoding. -/
theorem operationCodesAtEveryWidth : Obligations.OperationCodesAtEveryWidth := by
  intro cfg x hx
  have row {k : Nat} (hk : k < 8) := decode_word cfg hk hx
  have word {i : Instr} (h : i.operand = 0) := encode_of_operand_zero cfg h
  exact ⟨row (by decide), rfl, row (by decide), row (by decide), row (by decide), row (by decide),
    (row (by decide)).trans (decodeFields_write x), row (by decide), row (by decide),
    word rfl, word rfl, word rfl, word rfl, word rfl, word rfl⟩

end Sys2Proof
end

section
/-! PROOF. `IllegalPort` (30_encoding.md R99, 60_exceptions.md R232): the table as the model's `legalOn`, what an operation
does where it is illegal, and that every operation that ends where it is legal answers with another error or none. -/

namespace Sys2Proof.Machine

variable {s t : State}

/-- The operations that the table of R99 forbids on a port. -/
theorem legalOn_eq_false_iff {i : Instr} {p : Port} :
    legalOn i p = false ↔
      ((∃ c, i = .init c) ∨ i = .flush) ∧ p ≠ .controller ∨ (∃ b, i = .write b) ∧ p ≠ .producer ∨
        i = .read ∧ p ≠ .consumer := by
  rw [← Bool.not_eq_true]
  cases i with
  | init c => simp [legalOn_init]
  | flush => simp [legalOn_flush]
  | write v => simp [legalOn_write]
  | read => simp [legalOn_read]
  | isempty | isfull | availdata | availspace => simp [legalOn]

/-- Every operation asks for its port's legality first (60_exceptions.md R230). -/
theorem exec_illegal {i : Instr} (h : legalOn i s.port = false) : exec i s = .next (s.raise .illegalPort) := by
  cases i <;> exact onLegalPort_illegal h

/-- A micro-step that leaves its port idle is the `IllegalPort` of an illegal operation, or answers with another code. -/
theorem exec_ends_rsp {i : Instr} (he : exec i s = .next t) (hidle : t.inFlight s.port = false) :
    (legalOn i s.port = false ∧ t = s.raise .illegalPort) ∨
    ∃ e v, e ≠ .illegalPort ∧ t.rsp = s.rsp.set s.port (some ⟨e, v⟩) := by
  cases exec_did he
  case illegal eq legal => exact .inl ⟨legal, eq⟩
  case answered v eq value => exact .inr ⟨.ok, v, by decide, by simp [eq]⟩
  case invalid eq => exact .inr ⟨.invalidCapacity, 0, by decide, by simp [eq]⟩
  case installed eq => exact .inr ⟨.ok, 0, by decide, by simp [eq]⟩
  case flushed eq => exact .inr ⟨.ok, 0, by decide, by simp [eq]⟩
  case full eq => exact .inr ⟨.full, 0, by decide, by simp [eq]⟩
  case wr3 eq => exact .inr ⟨.ok, 0, by decide, by simp [eq]⟩
  case empty eq => exact .inr ⟨.empty, 0, by decide, by simp [eq]⟩
  case rd3 eq => exact .inr ⟨.ok, byteValue s.cLatch, by decide, by simp [eq]⟩
  -- the silent micro-steps leave their port inside its operation
  case wr0 | wr1 | wr1Unchecked | wr2 =>
    rw [‹s.port = .producer›, not_inFlight_producer] at hidle
    subst t
    simp at hidle
  case rd0 | rd1 | rd1Unchecked | rd2 =>
    rw [‹s.port = .consumer›, not_inFlight_consumer] at hidle
    subst t
    simp at hidle

/-- Where an operation is legal, it never ends with `IllegalPort`. -/
theorem not_endsWith_illegalPort {i : Instr} (h : legalOn i s.port = true) (v : Nat) :
    ¬endsWith i s ⟨.illegalPort, v⟩ := by
  rintro ⟨t, he, hrsp, hidle⟩
  rcases exec_ends_rsp he hidle with ⟨hl, -⟩ | ⟨e, w, hne, hrsp'⟩
  · simp [h] at hl
  · rw [hrsp, PerPort.set_inj] at hrsp'
    cases hrsp'
    exact hne rfl

/-- Settles O26: the table is `legalOn`, which every operation tests first; no other test leads to `IllegalPort`. -/
theorem illegalPortExactlyByTheTable : Obligations.IllegalPortExactlyByTheTable := by
  intro i s
  rw [← legalOn_eq_false_iff, Bool.not_eq_false]
  exact ⟨exec_illegal, not_endsWith_illegalPort⟩

end Sys2Proof.Machine
end

section
/-! PROOF. What each query answers (41_query_ops.md R140 to R143): the occupancy of a snapshot in integers, the value each
query makes of it, and one form of the answer for all four. -/

namespace Sys2Proof.Machine

variable (s : State)

/-- The subtraction of R193 with the counters' range `2^W` written out. -/
theorem subW_cast_two_pow (cfg : Config) (a b : Nat) : (subW cfg a b : Int) = ((a : Int) - b) % 2 ^ cfg.w := by
  simpa [Config.range] using subW_cast cfg a b

/-- The occupancy of the snapshot as R29 writes it, on integers. -/
theorem givenOccupied_cast :
    (s.givenOccupied : Int) = ((s.given.writeCount : Int) - s.given.readCount) % 2 ^ s.cfg.w :=
  subW_cast_two_pow s.cfg _ _

theorem givenOccupied_eq_toNat :
    s.givenOccupied = (((s.given.writeCount : Int) - s.given.readCount) % 2 ^ s.cfg.w).toNat := by
  rw [← givenOccupied_cast, Int.toNat_natCast]

/-- The space of the snapshot as R143 writes it, on integers. -/
theorem givenSpace_cast :
    (s.given.space s.cfg : Int) = ((s.given.capacity : Int) - s.givenOccupied) % 2 ^ s.cfg.w :=
  subW_cast_two_pow s.cfg _ _

theorem givenSpace_eq_toNat :
    s.given.space s.cfg = (((s.given.capacity : Int) -
      ((s.given.writeCount : Int) - s.given.readCount) % 2 ^ s.cfg.w) % 2 ^ s.cfg.w).toNat := by
  rw [← givenOccupied_cast, ← givenSpace_cast, Int.toNat_natCast]

theorem boolValue_decide (p : Prop) [Decidable p] : boolValue (decide p) = if p then 1 else 0 := by
  simp only [boolValue, decide_eq_true_eq]

/-- A snapshot shows an empty queue when its counters are equal as `W`-bit values (R194). -/
theorem boolValue_emptyOf_given :
    boolValue (emptyOf s.givenOccupied) =
      if s.given.writeCount % 2 ^ s.cfg.w = s.given.readCount % 2 ^ s.cfg.w then 1 else 0 :=
  (boolValue_decide _).trans (if_congr (subW_eq_zero_iff s.cfg _ _) rfl rfl)

/-- A snapshot shows a full queue when its occupancy, as an unsigned number, is at least its capacity (R148, R194). -/
theorem boolValue_fullOf_given :
    boolValue (fullOf s.given.capacity s.givenOccupied) =
      if (s.given.capacity : Int) ≤ ((s.given.writeCount : Int) - s.given.readCount) % 2 ^ s.cfg.w then 1 else 0 := by
  rw [← givenOccupied_cast]
  exact (boolValue_decide _).trans (if_congr Int.ofNat_le.symm rfl rfl)

variable {s}

/-- A query changes the response of its port, and otherwise only what its snapshot changes. -/
theorem exec_query_rsp {i : Instr} {v : Nat} (h : queryValue i s = some v) :
    exec i s = .next { s.observe with rsp := s.rsp.set s.port (some ⟨.ok, v⟩) } := by
  simp only [exec_query h, State.respond, State.observe_rsp, State.observe_port]

/-- The word of a query, its answer, and under SC the snapshot it is of (R72). -/
theorem query_answers {i : Instr} {v : Nat} (hi : i.operand = 0) (hv : queryValue i s = some v) :
    encode s.cfg i = i.opcode * 2 ^ s.cfg.opw ∧
    exec i s = .next { s.observe with rsp := s.rsp.set s.port (some ⟨.ok, v⟩) } ∧
    (s.cfg.view = .sc → s.observe = s ∧ s.given = ⟨s.writeCount, s.readCount, s.capacity⟩) :=
  ⟨encode_of_operand_zero s.cfg hi, exec_query_rsp hv, fun hsc => ⟨State.observe_sc s hsc, given_sc hsc⟩⟩

/-- Settles O11: the occupancy is 0 exactly when the counters are equal modulo `2^W`. -/
theorem isemptyAnswers : Obligations.IsemptyAnswers := fun s =>
  query_answers rfl (congrArg some (boolValue_emptyOf_given s))

/-- Settles O12: the model's unsigned comparison is the one of the integers. -/
theorem isfullAnswers : Obligations.IsfullAnswers := fun s =>
  query_answers rfl (congrArg some (boolValue_fullOf_given s))

/-- Settles O13: the value is the occupancy of the snapshot. -/
theorem availdataAnswers : Obligations.AvaildataAnswers := fun s =>
  query_answers rfl (congrArg some (givenOccupied_eq_toNat s))

/-- Settles O14: the value is the modular difference of the snapshot's capacity and occupancy. -/
theorem availspaceAnswers : Obligations.AvailspaceAnswers := fun s =>
  query_answers rfl (congrArg some (givenSpace_eq_toNat s))

end Sys2Proof.Machine
end

section
/-! PROOF. The frame of the data operations (42_data_ops.md R164, R174): what the two ports own apart, a `WRITE` leaves the
capacity and the side of port C, a `READ` leaves the capacity, the side of port P and the storage; no micro-step of any operation
changes a byte outside the slot that `writeIndex` names. -/

namespace Sys2Proof.Machine

variable {s t : State}

/-- Outside the slot that `writeIndex` names, every byte is as before: a micro-step that stores is `WR1`. -/
theorem exec_readByte_other {i : Instr} {a : Nat} (he : exec i s = .next t) (ha : a ≠ slotAddress s.cfg s.writeIndex) :
    Memory.readByte t.storage a = Memory.readByte s.storage a := by
  rcases exec_storage he with hs | ⟨v, -, -, rfl⟩
  · rw [hs]
  · exact Memory.readByte_writeByte_other s.storage v ha

/-- No micro-step of `WRITE`, refused or not, touches the reader's registers, the capacity or a `READ` in flight. -/
theorem exec_write_readSide {v : Byte} (he : exec (.write v) s = .next t) :
    t.readIndex = s.readIndex ∧ t.readCount = s.readCount ∧ t.capacity = s.capacity ∧
      t.cPhase = s.cPhase ∧ t.cLatch = s.cLatch ∧ t.cChecked = s.cChecked := by
  cases exec_did he with
  | answered value => cases value
  | illegal | full | wr0 | wr1 | wr1Unchecked | wr2 | wr3 => subst t; simp

/-- No micro-step of `READ`, refused or not, touches the writer's registers, the capacity, a `WRITE` in flight or the storage. -/
theorem exec_read_writeSide (he : exec .read s = .next t) :
    t.writeIndex = s.writeIndex ∧ t.writeCount = s.writeCount ∧ t.capacity = s.capacity ∧
      t.pPhase = s.pPhase ∧ t.pLatch = s.pLatch ∧ t.pChecked = s.pChecked ∧ t.storage = s.storage := by
  cases exec_did he with
  | answered value => cases value
  | illegal | empty | rd0 | rd1 | rd1Unchecked | rd2 | rd3 => subst t; simp

/-- Settles O22: the reader's side by the micro-steps of `WRITE`, the bytes by the one slot that any micro-step can store to. -/
theorem writeMutatesOnlyWriterOwnedState : Obligations.WriteMutatesOnlyWriterOwnedState := by
  intro s t v he
  obtain ⟨hindex, hcount, hcapacity, hphase, hlatch, hchecked⟩ := exec_write_readSide he
  exact ⟨hindex, hcount, hcapacity, hphase, hlatch, hchecked, exec_cfg he, fun _ => exec_rsp_other he,
    fun _ => exec_readByte_other he⟩

/-- Settles O23: the writer's side and the whole storage by the micro-steps of `READ`. -/
theorem readMutatesOnlyReaderOwnedState : Obligations.ReadMutatesOnlyReaderOwnedState := by
  intro s t he
  obtain ⟨hindex, hcount, hcapacity, hphase, hlatch, hchecked, hstorage⟩ := exec_read_writeSide he
  exact ⟨hindex, hcount, hcapacity, hphase, hlatch, hchecked, exec_cfg he, fun _ => exec_rsp_other he,
    fun _ => by rw [hstorage]⟩

end Sys2Proof.Machine
end

section
/-! PROOF. The block's three operations on numbers (43_arithmetic_and_properties.md R191 to R193): how the counter increment and
the modular subtraction behave with and without a wrap, and their values at `W = 8`. -/

namespace Sys2Proof.Machine

variable {cfg : Config} {a b : Nat}

theorem range_of_w_eq_eight (h : cfg.w = 8) : cfg.range = 256 := congrArg (2 ^ ·) h

/-- The largest counter value wraps to 0. -/
theorem incW_max (cfg : Config) : incW cfg (cfg.range - 1) = 0 := by
  rw [incW, Nat.sub_add_cancel cfg.range_pos, Nat.mod_self]

theorem incW_of_lt {x : Nat} (h : x + 1 < cfg.range) : incW cfg x = x + 1 := Nat.mod_eq_of_lt h

/-- Without a borrow the modular difference is the difference. -/
theorem subW_of_le (ha : a < cfg.range) (h : b ≤ a) : subW cfg a b = a - b :=
  subW_unique cfg (by omega) (by rw [Nat.add_sub_cancel' h])

/-- With a borrow the modular difference is the difference plus `2^W`. -/
theorem subW_of_lt (hb : b < cfg.range) (h : a < b) : subW cfg a b = a + cfg.range - b :=
  subW_unique cfg (by omega) (by rw [Nat.add_sub_cancel' (by omega), Nat.add_mod_right])

/-- Settles O44: the integer form of the subtraction, its bound, and its two cases; the occupancy and the space are such
differences by definition. -/
theorem modularSubtraction : Obligations.ModularSubtraction := by
  intro cfg a b ha hb
  refine ⟨subW_cast_two_pow cfg a b, subW_lt cfg a b, subW_of_le ha, subW_of_lt hb, fun _ => ⟨rfl, rfl⟩, fun hw => ?_⟩
  simp only [subW, range_of_w_eq_eight hw]
  decide

/-- Settles O42: the increment is the one of R191 by definition; its wrap and its value below the wrap are the laws above. -/
theorem counterIncrementWraps : Obligations.CounterIncrementWraps := by
  intro cfg x
  refine ⟨rfl, incW_max cfg, incW_of_lt, fun hw => ?_⟩
  simp only [incW, range_of_w_eq_eight hw]
  decide

/-- Settles O43: the two forms agree below the capacity, and `i + 1 ≤ c ≤ 2^W - 1` leaves no room for an overflow. -/
theorem indexAdvanceWrapsAtCapacity : Obligations.IndexAdvanceWrapsAtCapacity := by
  intro cfg c i hi hc
  have hsum : i + 1 ≤ 2 ^ cfg.w - 1 := Nat.le_trans hi hc
  exact ⟨rfl, advIndex_eq hi, hsum, advIndex_lt (Nat.ne_zero_of_lt hi), rfl⟩

end Sys2Proof.Machine
end

section
/-! PROOF. The errors (60_exceptions.md R223, R224, R227): the four ways in which an operation ends with an error, said once.
Each is a `raise` in the state as it was or right after a snapshot, so it changes neither the six items nor anything in flight;
`Full` and `Empty` come from the hardened checks alone, and those checks raise them. -/

namespace Sys2Proof.Machine

variable {s t : State}

/-- The ways in which an operation ends with an error, each with what led to it. -/
inductive Raised (s t : State) : Instr → Err → Prop
  | illegalPort {i : Instr} (legal : legalOn i s.port = false) (eq : t = s.raise .illegalPort) : Raised s t i .illegalPort
  | invalidCapacity {c : Nat} (port : s.port = .controller) (hardened : s.cfg.hardened = true)
      (capacity : Machine.invalidCapacity s.cfg c = true) (eq : t = s.raise .invalidCapacity) :
      Raised s t (.init c) .invalidCapacity
  | full {b : Byte} (port : s.port = .producer) (hardened : s.cfg.hardened = true) (idle : s.inFlight .producer = false)
      (full : s.given.capacity ≤ s.givenOccupied) (eq : t = s.observe.raise .full) : Raised s t (.write b) .full
  | empty (port : s.port = .consumer) (hardened : s.cfg.hardened = true) (idle : s.inFlight .consumer = false)
      (empty : s.givenOccupied = 0) (eq : t = s.observe.raise .empty) : Raised s t .read .empty

/-- An error is raised in the state as it was, or in the one right after the port's snapshot. -/
theorem Raised.eq_raise {i : Instr} {e : Err} (h : Raised s t i e) : t = s.raise e ∨ t = s.observe.raise e := by
  cases h with
  | illegalPort _ eq | invalidCapacity _ _ _ eq => exact .inl eq
  | full _ _ _ _ eq | empty _ _ _ _ eq => exact .inr eq

/-- A response given on the same port over the same responses is the same only if its code and its value are. -/
theorem respond_rsp_inj {u : State} {e e' : Err} {v v' : Nat} (hrsp : u.rsp = s.rsp) (hport : u.port = s.port) :
    (u.respond e' v').rsp = s.rsp.set s.port (some ⟨e, v⟩) ↔ e' = e ∧ v' = v := by
  simp [hrsp, hport, PerPort.set_inj]

/-- Port P is inside its `WRITE` while the phase is not IDLE or the check has passed. -/
theorem producer_inFlight_ne_false (hport : s.port = .producer) (h : t.pPhase ≠ .idle ∨ t.pChecked = true) :
    t.inFlight s.port ≠ false := by
  rw [hport, Ne, not_inFlight_producer]
  rintro ⟨hphase, hchecked⟩
  simp [hphase, hchecked] at h

/-- Port C is inside its `READ` while the phase is not IDLE or the check has passed. -/
theorem consumer_inFlight_ne_false (hport : s.port = .consumer) (h : t.cPhase ≠ .idle ∨ t.cChecked = true) :
    t.inFlight s.port ≠ false := by
  rw [hport, Ne, not_inFlight_consumer]
  rintro ⟨hphase, hchecked⟩
  simp [hphase, hchecked] at h

/-- An operation that ends with an error is in one of the four ways of `Raised`, and its value is 0. -/
theorem exec_ends_error {i : Instr} {e : Err} {v : Nat} (he : exec i s = .next t) (hne : e ≠ .ok)
    (hrsp : t.rsp = s.rsp.set s.port (some ⟨e, v⟩)) (hidle : t.inFlight s.port = false) : v = 0 ∧ Raised s t i e := by
  have answer {u : State} {e' : Err} {v' : Nat} (eq : t = u.respond e' v') (hr : u.rsp = s.rsp)
      (hp : u.port = s.port) : e' = e ∧ v' = v := (respond_rsp_inj hr hp).mp (eq ▸ hrsp)
  cases exec_did he with
  | illegal legal eq =>
    obtain ⟨rfl, rfl⟩ := answer eq rfl rfl
    exact ⟨rfl, .illegalPort legal eq⟩
  | invalid port _ _ hardened capacity eq =>
    obtain ⟨rfl, rfl⟩ := answer eq rfl rfl
    exact ⟨rfl, .invalidCapacity port hardened capacity eq⟩
  | full port phase hardened checked full eq =>
    obtain ⟨rfl, rfl⟩ := answer eq s.observe_rsp s.observe_port
    exact ⟨rfl, .full port hardened (not_inFlight_producer.mpr ⟨phase, checked⟩) full eq⟩
  | empty port phase hardened checked empty eq =>
    obtain ⟨rfl, rfl⟩ := answer eq s.observe_rsp s.observe_port
    exact ⟨rfl, .empty port hardened (not_inFlight_consumer.mpr ⟨phase, checked⟩) empty eq⟩
  -- every other way to end answers `OK`
  | answered _ eq | installed _ _ _ _ eq | flushed _ _ _ eq | wr3 _ _ _ eq | rd3 _ _ _ eq =>
    exact absurd (answer eq (by simp) (by simp)).1.symm hne
  -- the silent micro-steps leave their port inside its operation
  | wr0 port _ _ _ _ _ eq | wr1 port _ _ _ _ eq | wr1Unchecked port _ _ _ _ eq | wr2 port _ eq =>
    exact absurd hidle (producer_inFlight_ne_false port (by simp [eq]))
  | rd0 port _ _ _ _ _ eq | rd1 port _ _ _ _ eq | rd1Unchecked port _ _ _ _ eq | rd2 port _ eq =>
    exact absurd hidle (consumer_inFlight_ne_false port (by simp [eq]))

/-- A check that refuses raises its error right after the snapshot. -/
theorem openingCheck_refused {e : Err} {passed : State} : openingCheck true e passed s = .next (s.observe.raise e) := rfl

/-- An idle port whose check raises an error ends its operation with it. -/
theorem endsWith_of_check {i : Instr} {e : Err} (he : exec i s = .next (s.observe.raise e))
    (hidle : s.inFlight s.port = false) : endsWith i s ⟨e, 0⟩ :=
  ⟨_, he, by simp, by simpa using hidle⟩

/-- The check of a hardened `WRITE` on a full queue (R162). -/
theorem exec_write_full {b : Byte} (hport : s.port = .producer) (hhard : s.cfg.hardened = true)
    (hidle : s.inFlight .producer = false) (hfull : s.given.capacity ≤ s.givenOccupied) :
    exec (.write b) s = .next (s.observe.raise .full) := by
  obtain ⟨hphase, hchecked⟩ := not_inFlight_producer.mp hidle
  have hrefused : fullOf s.given.capacity s.givenOccupied = true := decide_eq_true hfull
  simp [execWrite_producer hport, hphase, hhard, hchecked, hrefused, openingCheck_refused]

/-- The check of a hardened `READ` on an empty queue (R172). -/
theorem exec_read_empty (hport : s.port = .consumer) (hhard : s.cfg.hardened = true)
    (hidle : s.inFlight .consumer = false) (hempty : s.givenOccupied = 0) :
    exec .read s = .next (s.observe.raise .empty) := by
  obtain ⟨hphase, hchecked⟩ := not_inFlight_consumer.mp hidle
  have hrefused : emptyOf s.givenOccupied = true := decide_eq_true hempty
  simp [execRead_consumer hport, hphase, hhard, hchecked, hrefused, openingCheck_refused]

/-- Settles O24: of the ways to raise an error only the check of `WRITE` gives `Full`, and on a full snapshot it does. -/
theorem fullRaisedExactly : Obligations.FullRaisedExactly := by
  intro i s v
  constructor
  · rintro ⟨t, he, hrsp, hidle⟩
    obtain ⟨rfl, hraised⟩ := exec_ends_error he (by decide) hrsp hidle
    cases hraised with
    | full port hardened idle full => exact ⟨_, rfl, port, hardened, idle, full, rfl⟩
  · rintro ⟨b, rfl, hport, hhard, hidle, hfull, rfl⟩
    exact endsWith_of_check (exec_write_full hport hhard hidle hfull) (hport ▸ hidle)

/-- Settles O25: of the ways to raise an error only the check of `READ` gives `Empty`, and on an empty snapshot it does. -/
theorem emptyRaisedExactly : Obligations.EmptyRaisedExactly := by
  intro i s v
  constructor
  · rintro ⟨t, he, hrsp, hidle⟩
    obtain ⟨rfl, hraised⟩ := exec_ends_error he (by decide) hrsp hidle
    cases hraised with
    | empty port hardened idle empty => exact ⟨rfl, port, hardened, idle, empty, rfl⟩
  · rintro ⟨rfl, hport, hhard, hidle, hempty, rfl⟩
    exact endsWith_of_check (exec_read_empty hport hhard hidle hempty) (hport ▸ hidle)

/-- Settles O27: an error is a `raise`, which changes the response alone, after at most a snapshot, which changes only the
model's own `views` and `draws`. -/
theorem errorsChangeNothing : Obligations.ErrorsChangeNothing := by
  intro i s t e v hne he hrsp hidle
  obtain ⟨rfl, hraised⟩ := exec_ends_error he hne hrsp hidle
  rcases hraised.eq_raise with rfl | rfl <;> simp

end Sys2Proof.Machine
end

section
/-! PROOF. Command and response words read back (30_encoding.md R92 to R95, R100): every word is its code times `2^OPW` plus its
operand, so a fact about words is one about the eight codes. -/

namespace Sys2Proof

variable {cfg : Config}

/-- `Laws.EncodeFits`, for every operation at once. -/
theorem encode_fields {i : Instr} (h : i.wf cfg = true) :
    encode cfg i < 2 ^ (3 + cfg.opw) ∧ encode cfg i / 2 ^ cfg.opw = i.opcode ∧ encode cfg i % 2 ^ cfg.opw = i.operand := by
  cases i with
  | init c => exact Laws.EncodeFits.init c cfg h
  | isempty => exact Laws.EncodeFits.isempty cfg h
  | isfull => exact Laws.EncodeFits.isfull cfg h
  | availdata => exact Laws.EncodeFits.availdata cfg h
  | availspace => exact Laws.EncodeFits.availspace cfg h
  | write v => exact Laws.EncodeFits.write v cfg h
  | read => exact Laws.EncodeFits.read cfg h
  | flush => exact Laws.EncodeFits.flush cfg h

/-- The row of an operation's code gives the operation back from its operand. -/
theorem decodeFields_opcode_operand (i : Instr) : decodeFields i.opcode i.operand = .ok i := by
  cases i with
  | write v => simp [Instr.opcode, Instr.operand, decodeFields]
  | init | isempty | isfull | availdata | availspace | read | flush => rfl

theorem decode_encode {i : Instr} (h : i.wf cfg = true) : decode cfg (encode cfg i) = .ok i := by
  obtain ⟨-, hcode, hoperand⟩ := encode_fields h
  rw [decode, hcode, hoperand, decodeFields_opcode_operand]

/-- Settles O3: the decoder finds the operation's own code and operand in its word. -/
theorem decodeOfEncodeIsTheOperation : Obligations.DecodeOfEncodeIsTheOperation := fun _ _ => decode_encode

/-- Each of the eight codes is that of an operation, which any operand of `OPW` bits makes well-formed. -/
theorem decodeFields_of_lt {k x : Nat} (hk : k < 8) (hx : x < 2 ^ cfg.opw) :
    ∃ i, decodeFields k x = .ok i ∧ i.wf cfg = true ∧ i.opcode = k := by
  match k, hk with
  | 0, _ => exact ⟨.init x, rfl, decide_eq_true hx, rfl⟩
  | 1, _ => exact ⟨.isempty, rfl, rfl, rfl⟩
  | 2, _ => exact ⟨.isfull, rfl, rfl, rfl⟩
  | 3, _ => exact ⟨.availdata, rfl, rfl, rfl⟩
  | 4, _ => exact ⟨.availspace, rfl, rfl, rfl⟩
  | 5, _ => exact ⟨.write (BitVec.ofNat 8 x), rfl, rfl, rfl⟩
  | 6, _ => exact ⟨.read, rfl, rfl, rfl⟩
  | 7, _ => exact ⟨.flush, rfl, rfl, rfl⟩

theorem decodeFields_of_ge {k x : Nat} (hk : 8 ≤ k) : decodeFields k x = .error .wordTooWide := by
  match k, hk with
  | _ + 8, _ => rfl

/-- The wires of a command port hold the words whose code is below 8 (R92). -/
theorem word_lt_iff_code_lt {word : Nat} : word < 2 ^ (3 + cfg.opw) ↔ word / 2 ^ cfg.opw < 8 := by
  rw [Nat.div_lt_iff_lt_mul (Nat.two_pow_pos _), Nat.pow_add]

/-- A word that fits the wires of a command port is the command of some operation (R100). -/
theorem decode_of_lt {word : Nat} (h : word < 2 ^ (3 + cfg.opw)) :
    ∃ i, decode cfg word = .ok i ∧ i.wf cfg = true ∧ i.opcode = word / 2 ^ cfg.opw :=
  decodeFields_of_lt (word_lt_iff_code_lt.mp h) (Nat.mod_lt _ (Nat.two_pow_pos _))

theorem decode_of_ge {word : Nat} (h : 2 ^ (3 + cfg.opw) ≤ word) : decode cfg word = .error .wordTooWide :=
  decodeFields_of_ge (Nat.le_of_not_lt fun hlt => Nat.not_lt.mpr h (word_lt_iff_code_lt.mpr hlt))

/-- Settles O4: the wires hold the words with a code below 8, and each code below 8 is an operation's. -/
theorem everyCommandWordDecodes : Obligations.EveryCommandWordDecodes := fun _ _ => ⟨decode_of_lt, decode_of_ge⟩

theorem Err.code_lt (e : Err) : e.code < 8 := by cases e <;> decide

theorem Err.ofCode_code (e : Err) : Err.ofCode e.code = some e := by cases e <;> rfl

/-- The codes 5, 6 and 7 of R95 stand for no error. -/
theorem Err.ofCode_unused {k : Nat} (h : 5 ≤ k) : Err.ofCode k = none := by
  match k, h with
  | _ + 5, _ => rfl

/-- An agent reads a response from the code and the value in its word. -/
theorem decodeResponse_word {k v : Nat} (hk : k < 8) (hv : v < 2 ^ cfg.opw) :
    decodeResponse cfg (k * 2 ^ cfg.opw + v) = (Err.ofCode k).map fun e => ⟨e, v⟩ := by
  obtain ⟨-, hcode, hvalue⟩ := Laws.EncodeFits.word_fields cfg hk hv
  rw [decodeResponse, hcode, hvalue]

theorem decodeResponse_encodeResponse {r : Response} (hv : r.value < 2 ^ cfg.opw) :
    decodeResponse cfg (encodeResponse cfg r) = some r := by
  rw [encodeResponse, decodeResponse_word r.err.code_lt hv, Err.ofCode_code, Option.map_some]

theorem encodeResponse_lt {r : Response} (hv : r.value < 2 ^ cfg.opw) : encodeResponse cfg r < 2 ^ (3 + cfg.opw) :=
  (Laws.EncodeFits.word_fields cfg r.err.code_lt hv).1

/-- Settles O5: code and value are the two fields of the word; the codes of R95 are `Err.code`. -/
theorem responsesAreReadBackFromTheirWords : Obligations.ResponsesAreReadBackFromTheirWords := by
  intro cfg v hv
  refine ⟨fun e => ⟨encodeResponse_lt hv, decodeResponse_encodeResponse hv⟩, ?_, rfl, rfl, rfl, rfl, fun k h5 h7 => ?_⟩
  · simp [encodeResponse, Err.code]
  · rw [decodeResponse_word (by omega) hv, Err.ofCode_unused h5, Option.map_none]

/-- Settles O1: each word of the test vectors is cut into its two fields by evaluation. -/
theorem referenceWordsDecode : Obligations.ReferenceWordsDecode := by
  unfold Obligations.ReferenceWordsDecode
  decide

end Sys2Proof
end

section
/-! PROOF. The storage primitives (00_scope.md R10), from the laws of `Laws/Memory.lean`. -/

namespace Sys2Proof.Machine

/-- Settles O45: read after write at the same and at another address, and the canonical form. -/
theorem storeIsReadBackAndKeepsTheForm : Obligations.StoreIsReadBackAndKeepsTheForm := fun m a _ v =>
  ⟨Memory.readByte_writeByte_same m a v, Memory.readByte_writeByte_other m v, Memory.wf_writeByte m a v⟩

end Sys2Proof.Machine
end

section
/-! PROOF. The invariant of every run (`State.Inv`): one lemma for each update of the state says when the update keeps it; a
micro-step is one of these updates, and a step is a micro-step, a move of the inputs, or a reset. -/

namespace Sys2Proof.Machine

variable {s t : State}

/-! ### The updates -/

/-- A snapshot is an update of the model's own fields `views` and `draws`. -/
theorem observe_eq_withViews (s : State) :
    s.observe = { s with views := s.observe.views, draws := s.observe.draws } := by
  unfold State.observe
  split <;> rfl

theorem State.Inv.withInputs (h : s.Inv) (es : List Event) (p : Port) (rs : PerPort (List Request))
    (cs : PerPort CheckAge) : State.Inv { s with events := es, port := p, reqs := rs, checks := cs } :=
  { h with }

theorem State.Inv.respond (h : s.Inv) {e : Err} {v : Nat} (hr : responseFits s.cfg ⟨e, v⟩) : (s.respond e v).Inv where
  __ := h
  responses_fit p r hp := by
    by_cases hport : p = s.port
    · subst hport
      rw [State.respond_rsp, PerPort.get_set_same] at hp
      cases hp
      exact hr
    · rw [State.respond_rsp, PerPort.get_set_other _ _ hport] at hp
      exact h.responses_fit p r hp

/-- An error carries the value 0, which every response word can hold. -/
theorem responseFits_zero (cfg : Config) (e : Err) : responseFits cfg ⟨e, 0⟩ := ⟨Nat.two_pow_pos _, fun _ => rfl⟩

theorem responseFits_ok {cfg : Config} {v : Nat} (h : v < 2 ^ cfg.opw) : responseFits cfg ⟨.ok, v⟩ :=
  ⟨h, fun hne => absurd rfl hne⟩

theorem State.Inv.raise (h : s.Inv) (e : Err) : (s.raise e).Inv := h.respond (responseFits_zero s.cfg e)

theorem State.Inv.observe (h : s.Inv) : s.observe.Inv := by
  rw [observe_eq_withViews]
  exact { h with
    created := fun hc =>
      have ⟨hwi, hri, hwc, hrc, hviews, hp, hq⟩ := h.created hc
      ⟨hwi, hri, hwc, hrc, observe_views_fresh hviews, hp, hq⟩
    views_sc := fun hsc => observe_views_fresh (h.views_sc hsc) }

/-- With an operation in flight on a data port there is a capacity (the CREATED condition, 10_state.md R39). -/
theorem State.Inv.capacity_ne_zero (h : s.Inv) (hf : s.inFlight .producer = true ∨ s.inFlight .consumer = true) :
    s.capacity ≠ 0 := by
  intro hc
  obtain ⟨-, -, -, -, -, hp, hq⟩ := h.created hc
  simp [hp, hq] at hf

theorem inFlight_of_pChecked (h : s.pChecked = true) : s.inFlight .producer = true := by simp [State.inFlight, h]

theorem inFlight_of_cChecked (h : s.cChecked = true) : s.inFlight .consumer = true := by simp [State.inFlight, h]

theorem inFlight_of_pPhase (h : s.pPhase ≠ .idle) : s.inFlight .producer = true := by
  cases hp : s.pPhase <;> simp_all [State.inFlight, WritePhase.busy]

theorem inFlight_of_cPhase (h : s.cPhase ≠ .idle) : s.inFlight .consumer = true := by
  cases hp : s.cPhase <;> simp_all [State.inFlight, ReadPhase.busy]

/-- With the data ports idle, the fields can be cleared and any capacity installed that the block may hold. -/
theorem State.Inv.cleared (h : s.Inv) {c : Nat} (hc : c < s.cfg.range) (hlegal : s.cfg.hardened = true → c ≤ capMax s.cfg)
    (hp : s.inFlight .producer = false) (hq : s.inFlight .consumer = false) : (s.cleared c).Inv where
  __ := h
  capacity_lt := hc
  writeCount_lt := s.cfg.range_pos
  readCount_lt := s.cfg.range_pos
  capacity_legal := hlegal
  writeIndex_lt := s.cfg.range_pos
  readIndex_lt := s.cfg.range_pos
  indices_lt hne := ⟨Nat.pos_of_ne_zero hne, Nat.pos_of_ne_zero hne⟩
  created _ := ⟨rfl, rfl, rfl, rfl, rfl, hp, hq⟩
  views_sc _ := rfl

theorem State.Inv.passedWR0 (h : s.Inv) (v : Byte) (hidle : s.pPhase = .idle) (hhard : s.cfg.hardened = true)
    (hc : s.capacity ≠ 0) : (s.passedWR0 v).Inv where
  __ := h
  created hz := absurd hz hc
  pChecked_idle _ := ⟨hhard, hidle⟩

/-- A byte stored in a slot of the region stays in the region. -/
theorem storedAt_within {slot : Nat} (h : s.storage.within s.cfg.storageBase s.cfg.depth) (v : Byte)
    (hslot : slot < s.cfg.depth) : (s.storedAt slot v).within s.cfg.storageBase s.cfg.depth := by
  intro e he
  rcases Memory.mem_writeByte he with haddr | hold
  · rw [haddr, slotAddress]
    omega
  · exact h e hold

theorem State.Inv.afterWR1 (h : s.Inv) (v : Byte) (hc : s.capacity ≠ 0) (hslot : s.writeIndex < s.cfg.depth) :
    (s.afterWR1 v).Inv where
  __ := h
  storage_wf := Memory.wf_writeByte _ _ _ h.storage_wf
  storage_within := storedAt_within h.storage_within v hslot
  created hz := absurd hz hc
  pChecked_idle hf := by simp at hf

theorem viewsAfterCountedWrite_sc (h : s.cfg.view = .sc) : s.viewsAfterCountedWrite = s.views := by
  simp [State.viewsAfterCountedWrite, h]

theorem viewsAfterCountedRead_sc (h : s.cfg.view = .sc) : s.viewsAfterCountedRead = s.views := by
  simp [State.viewsAfterCountedRead, h]

theorem State.Inv.afterWR2 (h : s.Inv) (hp : s.pPhase = .stored) : s.afterWR2.Inv where
  __ := h
  writeCount_lt := incW_lt _ _
  created hz := absurd hz (h.capacity_ne_zero (.inl (inFlight_of_pPhase (by simp [hp]))))
  pChecked_idle hf := by simp [Inv_pChecked_false h (by simp [hp])] at hf
  views_sc hsc := (viewsAfterCountedWrite_sc (s := s) hsc).trans (h.views_sc hsc)

theorem State.Inv.afterWR3 (h : s.Inv) (hp : s.pPhase = .counted) (hc : s.capacity ≠ 0) : s.afterWR3.Inv where
  __ := h
  writeIndex_lt := Nat.lt_trans (advIndex_lt hc) h.capacity_lt
  indices_lt _ := ⟨advIndex_lt hc, (h.indices_lt hc).2⟩
  created hz := absurd hz hc
  pChecked_idle hf := by simp [Inv_pChecked_false h (by simp [hp])] at hf

theorem State.Inv.passedRD0 (h : s.Inv) (hidle : s.cPhase = .idle) (hhard : s.cfg.hardened = true)
    (hc : s.capacity ≠ 0) : s.passedRD0.Inv where
  __ := h
  created hz := absurd hz hc
  cChecked_idle _ := ⟨hhard, hidle⟩

theorem State.Inv.afterRD1 (h : s.Inv) (hc : s.capacity ≠ 0) : s.afterRD1.Inv where
  __ := h
  created hz := absurd hz hc
  cChecked_idle hf := by simp at hf

theorem State.Inv.afterRD2 (h : s.Inv) (hp : s.cPhase = .loaded) : s.afterRD2.Inv where
  __ := h
  readCount_lt := incW_lt _ _
  created hz := absurd hz (h.capacity_ne_zero (.inr (inFlight_of_cPhase (by simp [hp]))))
  cChecked_idle hf := by simp [Inv_cChecked_false h (by simp [hp])] at hf
  views_sc hsc := (viewsAfterCountedRead_sc (s := s) hsc).trans (h.views_sc hsc)

theorem State.Inv.afterRD3 (h : s.Inv) (hp : s.cPhase = .counted) (hc : s.capacity ≠ 0) : s.afterRD3.Inv where
  __ := h
  readIndex_lt := Nat.lt_trans (advIndex_lt hc) h.capacity_lt
  indices_lt _ := ⟨(h.indices_lt hc).1, advIndex_lt hc⟩
  created hz := absurd hz hc
  cChecked_idle hf := by simp [Inv_cChecked_false h (by simp [hp])] at hf

/-! ### Reset -/

/-- What reset leaves, over any storage that fits the region, and with any inputs. -/
theorem State.Inv.of_reset {cfg : Config} (hcfg : cfg.wf = true) {m : Memory} (hwf : Memory.wf m = true)
    (hin : m.within cfg.storageBase cfg.depth) : State.Inv { State.resetWith cfg with storage := m } where
  cfg_wf := hcfg
  storage_wf := hwf
  storage_within := hin
  capacity_lt := cfg.range_pos
  writeCount_lt := cfg.range_pos
  readCount_lt := cfg.range_pos
  capacity_legal _ := Nat.zero_le _
  writeIndex_lt := cfg.range_pos
  readIndex_lt := cfg.range_pos
  indices_lt hne := absurd rfl hne
  created _ := ⟨rfl, rfl, rfl, rfl, rfl, rfl, rfl⟩
  pChecked_idle hf := by simp [State.resetWith] at hf
  cChecked_idle hf := by simp [State.resetWith] at hf
  views_sc _ := rfl
  responses_fit p r hr := by cases p <;> cases hr

theorem State.Inv.applyReset (h : s.Inv) : s.applyReset.Inv :=
  { State.Inv.of_reset h.cfg_wf h.storage_wf h.storage_within with }

theorem resetWith_inv {cfg : Config} (h : cfg.wf = true) : (State.resetWith cfg).Inv :=
  .of_reset h rfl (fun _ he => absurd he List.not_mem_nil)

/-- Settles O47: every field of `State.Inv` holds of the reset values, the reference parameters being admitted ones. -/
theorem resetMeetsTheInvariant : Obligations.ResetMeetsTheInvariant := ⟨resetWith_inv rfl, fun _ => resetWith_inv⟩

/-! ### Micro-steps and steps -/

/-- A hardened `INIT` that is not turned away installs a legal capacity. -/
theorem capacityOperand_legal {cfg : Config} {c : Nat} (h : invalidCapacity cfg c = false) :
    capacityOperand cfg c ≤ capMax cfg := by
  obtain ⟨-, hmax⟩ : 1 ≤ c ∧ c ≤ capMax cfg :=
    not_not.mp fun hn => by simp [(invalidCapacity_iff cfg c).mpr hn] at h
  rwa [capacityOperand_of_le cfg hmax]

theorem exec_inv {i : Instr} (h : s.Inv) (he : exec i s = .next t) : t.Inv := by
  cases exec_did he with
  | illegal _ eq => exact eq ▸ h.raise _
  | answered value eq => exact eq ▸ h.observe.respond (by simpa using responseFits_ok (queryValue_lt value))
  | invalid _ _ _ _ _ eq => exact eq ▸ h.raise _
  | installed _ hp hq legal eq =>
    exact eq ▸ (h.cleared (Nat.mod_lt _ s.cfg.range_pos) (fun hh => capacityOperand_legal (legal hh)) hp hq).respond
      (responseFits_zero _ _)
  | flushed _ hp hq eq =>
    exact eq ▸ (h.cleared h.capacity_lt h.capacity_legal hp hq).respond (responseFits_zero _ _)
  | full _ _ _ _ _ eq => exact eq ▸ h.observe.raise _
  | wr0 _ phase hardened _ _ capacity eq =>
    exact eq ▸ h.observe.passedWR0 _ (by simpa using phase) (by simpa using hardened) (by simpa using capacity)
  | wr1 _ _ _ checked slot eq =>
    exact eq ▸ h.afterWR1 _ (h.capacity_ne_zero (.inl (inFlight_of_pChecked checked))) slot
  | wr1Unchecked _ _ _ capacity slot eq => exact eq ▸ h.afterWR1 _ capacity slot
  | wr2 _ phase eq => exact eq ▸ h.afterWR2 phase
  | wr3 _ phase capacity eq => exact eq ▸ (h.afterWR3 phase capacity).respond (responseFits_zero _ _)
  | empty _ _ _ _ _ eq => exact eq ▸ h.observe.raise _
  | rd0 _ phase hardened _ _ capacity eq =>
    exact eq ▸ h.observe.passedRD0 (by simpa using phase) (by simpa using hardened) (by simpa using capacity)
  | rd1 _ _ _ checked _ eq => exact eq ▸ h.afterRD1 (h.capacity_ne_zero (.inr (inFlight_of_cChecked checked)))
  | rd1Unchecked _ _ _ capacity _ eq => exact eq ▸ h.afterRD1 capacity
  | rd2 _ phase eq => exact eq ▸ h.afterRD2 phase
  | rd3 _ phase capacity eq =>
    exact eq ▸ (h.afterRD3 phase capacity).respond (responseFits_ok (byteValue_lt _ _))

theorem step_inv (h : s.Inv) (he : step s = .next t) : t.Inv := by
  rcases step_next he with ⟨-, rfl⟩ | ⟨es, -, rfl⟩ | ⟨p, es, hev, -⟩
  · exact h
  · exact (h.withInputs es s.port s.reqs s.checks).applyReset
  · obtain ⟨u, hu, hact⟩ := turn_next hev he
    have hinv : u.Inv := hu ▸ h.withInputs es p u.reqs u.checks
    rcases hact with ⟨rfl, -, -⟩ | ⟨i, hx, -⟩
    · exact hinv
    · exact exec_inv hinv hx

/-- Settles O46: a step is a reset, a move of the inputs, or a micro-step, and each keeps the invariant. -/
theorem everyStepKeepsTheInvariant : Obligations.EveryStepKeepsTheInvariant := fun _ _ => step_inv

end Sys2Proof.Machine
end

section
/-! PROOF. The turn of a port, said once in both directions (30_encoding.md R101, R104): which command it leaves to run and which
inputs it moves. From it the statements about single steps, `PUT` and `GET`. -/

namespace Sys2Proof.Machine

variable {s t u : State} {p : Port} {es : List Event} {i : Instr} {o : Option Instr}

/-- The turn of port `p`, with the events `es` left: the command it leaves to run, none if the port does nothing, and the
state in which it runs. -/
inductive Turn (s : State) (p : Port) (es : List Event) : Option Instr → State → Prop
  | goesOn {i : Instr} (op : s.inFlightInstr p = some i) : Turn s p es (some i) ((s.withEvents es).withTurn p)
  | accepts {i : Instr} {q : Request} {rest : List Request} (idle : s.inFlight p = false) (req : s.reqs.get p = q :: rest)
      (guard : ∀ w, q = .issueIfZero w → s.lastWasZero p = true) (word : decode s.cfg q.word = .ok i) :
      Turn s p es (some i) ((s.withEvents es).accepting p i rest)
  | silent (idle : s.inFlight p = false) (req : s.reqs.get p = []) : Turn s p es none ((s.withEvents es).withTurn p)
  | drops {w : Nat} {rest : List Request} (idle : s.inFlight p = false) (req : s.reqs.get p = .issueIfZero w :: rest)
      (nonzero : s.lastWasZero p = false) : Turn s p es none ((s.withEvents es).dropping p rest)

theorem present_of_decode {word : Nat} {rest : List Request} (h : decode s.cfg word = .ok i) :
    present p word rest s = .run i (s.accepting p i rest) := by
  simp [present, h]

theorem present_of_error {word : Nat} {rest : List Request} {e : DecodeError} (h : decode s.cfg word = .error e) :
    present p word rest s = .reject (.wordTooWide word) := by
  simp [present, h]

/-- An idle port presents its agent's first request, if the request is not guarded or its guard is met. -/
theorem fetch_presents {q : Request} {rest : List Request} (hidle : s.inFlight p = false) (hreq : s.reqs.get p = q :: rest)
    (hguard : ∀ w, q = .issueIfZero w → s.lastWasZero p = true) : fetch p s = present p q.word rest s := by
  cases q with
  | issue w b => exact fetch_issue hidle hreq
  | issueIfZero w => rw [fetch_issueIfZero hidle hreq, if_pos (hguard w rfl)]; rfl

@[simp] theorem withEvents_inFlightInstr : (s.withEvents es).inFlightInstr p = s.inFlightInstr p := by cases p <;> rfl

@[simp] theorem withEvents_lastWasZero : (s.withEvents es).lastWasZero p = s.lastWasZero p := rfl

theorem step_goesOn (hev : s.events = .turn p :: es) (h : s.inFlightInstr p = some i) :
    step s = exec i ((s.withEvents es).withTurn p) := by
  rw [step_turn hev, fetch_in_flight (withEvents_inFlightInstr.trans h)]

theorem step_accepts {q : Request} {rest : List Request} (hev : s.events = .turn p :: es) (hidle : s.inFlight p = false)
    (hreq : s.reqs.get p = q :: rest) (hguard : ∀ w, q = .issueIfZero w → s.lastWasZero p = true)
    (hd : decode s.cfg q.word = .ok i) : step s = exec i ((s.withEvents es).accepting p i rest) := by
  rw [step_turn hev, fetch_presents (s := s.withEvents es) (by simpa using hidle) hreq hguard,
    present_of_decode (s := s.withEvents es) hd]

theorem step_refused {q : Request} {rest : List Request} {e : DecodeError} (hev : s.events = .turn p :: es)
    (hidle : s.inFlight p = false) (hreq : s.reqs.get p = q :: rest)
    (hguard : ∀ w, q = .issueIfZero w → s.lastWasZero p = true) (hd : decode s.cfg q.word = .error e) :
    step s = .refused (.wordTooWide q.word) := by
  rw [step_turn hev, fetch_presents (s := s.withEvents es) (by simpa using hidle) hreq hguard,
    present_of_error (s := s.withEvents es) hd]

theorem step_silent (hev : s.events = .turn p :: es) (hidle : s.inFlight p = false) (hreq : s.reqs.get p = []) :
    step s = .next ((s.withEvents es).withTurn p) := by
  rw [step_turn hev, fetch_no_request (s := s.withEvents es) (by simpa using hidle) hreq]

theorem step_drops {w : Nat} {rest : List Request} (hev : s.events = .turn p :: es) (hidle : s.inFlight p = false)
    (hreq : s.reqs.get p = .issueIfZero w :: rest) (hz : s.lastWasZero p = false) :
    step s = .next ((s.withEvents es).dropping p rest) := by
  rw [step_turn hev, fetch_issueIfZero (s := s.withEvents es) (by simpa using hidle) hreq, withEvents_lastWasZero, hz]
  rfl

/-- What a turn of port `p` leads to: a micro-step of a command, nothing, or the refusal of a word that is too wide. -/
theorem step_turn_cases (hev : s.events = .turn p :: es) :
    (∃ i u, Turn s p es (some i) u ∧ step s = exec i u) ∨ (∃ u, Turn s p es none u ∧ step s = .next u) ∨
      ∃ q rest e, s.reqs.get p = q :: rest ∧ decode s.cfg q.word = .error e ∧
        step s = .refused (.wordTooWide q.word) := by
  cases hop : s.inFlightInstr p with
  | some i => exact .inl ⟨i, _, .goesOn hop, step_goesOn hev hop⟩
  | none =>
    have hidle := inFlightInstr_none.mp hop
    cases hreq : s.reqs.get p with
    | nil => exact .inr (.inl ⟨_, .silent hidle hreq, step_silent hev hidle hreq⟩)
    | cons q rest =>
      by_cases hdrop : ∃ w, q = .issueIfZero w ∧ s.lastWasZero p = false
      · obtain ⟨w, rfl, hz⟩ := hdrop
        exact .inr (.inl ⟨_, .drops hidle hreq hz, step_drops hev hidle hreq hz⟩)
      · have hguard : ∀ w, q = .issueIfZero w → s.lastWasZero p = true := fun w hq => by
          by_contra hz
          exact hdrop ⟨w, hq, Bool.eq_false_iff.mpr hz⟩
        cases hd : decode s.cfg q.word with
        | ok i => exact .inl ⟨i, _, .accepts hidle hreq hguard hd, step_accepts hev hidle hreq hguard hd⟩
        | error e => exact .inr (.inr ⟨q, rest, e, rfl, hd, step_refused hev hidle hreq hguard hd⟩)

/-- The events to come play no part in what a turn leaves to run. -/
theorem Turn.nextCommand (h : Turn s p es o u) : s.nextCommand p = o := by
  unfold State.nextCommand
  cases h with
  | goesOn op => rw [fetch_in_flight op]
  | accepts idle req guard word => rw [fetch_presents idle req guard, present_of_decode word]
  | silent idle req => rw [fetch_no_request idle req]
  | drops idle req nonzero => rw [fetch_issueIfZero idle req, if_neg (ne_true_of_eq_false nonzero)]

/-- A turn moves inputs only. -/
theorem Turn.eq_inputs (h : Turn s p es o u) :
    u = { s with events := es, port := p, reqs := u.reqs, checks := u.checks } := by
  cases h <;> rfl

theorem Turn.port_eq (h : Turn s p es o u) : u.port = p := by cases h <;> rfl

/-- The requests of a port after its turn are those before it, but perhaps for the first one; the other ports keep theirs. -/
theorem Turn.reqs_suffix (h : Turn s p es o u) (q : Port) : u.reqs.get q <:+ s.reqs.get q := by
  have set_rest {r : Request} {rest : List Request} (hreq : s.reqs.get p = r :: rest) :
      (s.reqs.set p rest).get q <:+ s.reqs.get q := by
    by_cases hq : q = p
    · subst hq
      rw [PerPort.get_set_same, hreq]
      exact List.suffix_cons _ _
    · rw [PerPort.get_set_other _ _ hq]
  cases h with
  | goesOn | silent => exact List.suffix_refl _
  | accepts _ req | drops _ req => exact set_rest req

/-- A command that runs goes on with its port's operation, or starts on an idle port. -/
theorem Turn.runs (h : Turn s p es (some i) u) : s.inFlightInstr p = some i ∨ s.inFlight p = false := by
  cases h with
  | goesOn op => exact .inl op
  | accepts idle => exact .inr idle

/-- A step is no event, a reset, or a turn. -/
theorem step_cases (he : step s = .next t) :
    (s.events = [] ∧ t = s) ∨ (∃ es, s.events = .reset :: es ∧ t = (s.withEvents es).applyReset) ∨
      ∃ p es, s.events = .turn p :: es ∧
        (Turn s p es none t ∨ ∃ i u, Turn s p es (some i) u ∧ exec i u = .next t) := by
  rcases step_next he with h | h | ⟨p, es, hev, -⟩
  · exact .inl h
  · exact .inr (.inl h)
  · refine .inr (.inr ⟨p, es, hev, ?_⟩)
    rcases step_turn_cases hev with ⟨i, u, hturn, hs⟩ | ⟨u, hturn, hs⟩ | ⟨q, rest, e, -, -, hs⟩
    · exact .inr ⟨i, u, hturn, hs ▸ he⟩
    · rw [hs] at he
      cases he
      exact .inl hturn
    · rw [hs] at he
      cases he

end Sys2Proof.Machine
end

section
/-! PROOF. Single steps of the machine, from the turns above: which command runs (R101, R104), in which steps none does, reset
(70_reset_and_hazards.md R260), and the two turns of `PUT` and `GET` (R104). -/

namespace Sys2Proof.Machine

variable {s : State} {p : Port} {es : List Event}

/-- The licensing queries of the two data ports, as R208 lists them. -/
theorem isCheckOn_iff {p : Port} {i : Instr} :
    isCheckOn p i = true ↔
      p = .producer ∧ (i = .isfull ∨ i = .availspace) ∨ p = .consumer ∧ (i = .isempty ∨ i = .availdata) := by
  cases p <;> cases i <;> simp [isCheckOn]

theorem CheckAge.next_eq (isCheck : Bool) (age : CheckAge) :
    age.next isCheck = if isCheck = true then .latest else if age = .never then .never else .earlier := by
  cases isCheck <;> cases age <;> rfl

/-- Settles O32: an idle port accepts its agent's request, guarded or not; a port inside an operation goes on with it. -/
theorem stepRunsTheDecodedCommand : Obligations.StepRunsTheDecodedCommand := by
  intro s p es i hev
  refine ⟨(s.checks.get p).next (isCheckOn p i), ?_, ?_, ?_, ?_, ?_⟩
  · rw [CheckAge.next_eq, if_congr isCheckOn_iff rfl rfl]
  · intro word relies rest hidle hreq hd
    exact step_accepts hev hidle hreq nofun hd
  · intro word rest hidle hreq hrsp hd
    exact step_accepts hev hidle hreq (fun _ _ => lastWasZero_iff.mpr hrsp) hd
  · rintro rfl hf
    exact step_goesOn hev (by simp [State.inFlightInstr, hf])
  · rintro rfl hf
    exact step_goesOn hev (by simp [State.inFlightInstr, hf])

/-- Settles O33: no event, no request, a guard that is not met, and a word that the decoder refuses. -/
theorem stepsWithoutACommand : Obligations.StepsWithoutACommand := by
  intro s
  refine ⟨fun h => by simp [step, h], fun p es hev hidle => ⟨step_silent hev hidle, ?_, ?_⟩⟩
  · intro word rest hreq hrsp
    exact step_drops hev hidle hreq (Bool.eq_false_iff.mpr (mt lastWasZero_iff.mp hrsp))
  · intro word relies rest hreq hwide
    exact step_refused hev hidle hreq nofun (decode_of_ge hwide)

/-- Settles O34: the reset state field by field; with no response left, a guarded request is dropped in it. -/
theorem resetEventRestoresTheCreatedState : Obligations.ResetEventRestoresTheCreatedState := by
  intro s es hev
  refine ⟨(s.withEvents es).applyReset, by simp [step, hev], rfl, ?_⟩
  rintro p es' word rest rfl hreq
  exact step_drops (s := (s.withEvents _).applyReset) rfl (by simp) hreq (by cases p <;> rfl)

/-- Settles O35: the registers are 0 by definition, and so the occupancy is 0 modulo `2^W`, whatever the width. -/
theorem resetValues : Obligations.ResetValues := by
  intro cfg
  have hoccupied : (State.resetWith cfg).occupied = 0 := subW_self cfg 0
  have hspace : (State.resetWith cfg).availSpace = 0 := by rw [State.availSpace, hoccupied]; exact subW_self cfg 0
  exact ⟨rfl, rfl, rfl, rfl, rfl, rfl, rfl, by rw [State.emptyFlag, hoccupied]; rfl,
    by rw [State.fullFlag, hoccupied]; rfl, hoccupied, hspace, fun p => by cases p <;> rfl, rfl⟩

/-- The command word of an operation stands on its agent's port: the block runs the operation. -/
theorem step_issue_encode {i : Instr} {b : Bool} {rest : List Request} (hev : s.events = .turn p :: es)
    (hidle : s.inFlight p = false) (hwf : i.wf s.cfg = true) (hreq : s.reqs.get p = .issue (encode s.cfg i) b :: rest) :
    step s = exec i ((s.withEvents es).accepting p i rest) :=
  step_accepts hev hidle hreq nofun (decode_encode hwf)

/-- A guarded command runs if the port's last response was `OK 0`. -/
theorem step_issueIfZero_encode {i : Instr} {rest : List Request} (hev : s.events = .turn p :: es)
    (hidle : s.inFlight p = false) (hwf : i.wf s.cfg = true)
    (hreq : s.reqs.get p = .issueIfZero (encode s.cfg i) :: rest) (hz : s.lastWasZero p = true) :
    step s = exec i ((s.withEvents es).accepting p i rest) :=
  step_accepts hev hidle hreq (fun _ _ => hz) (decode_encode hwf)

/-- After an answer `OK v` the guard of R104 is met exactly when `v` is 0. -/
theorem lastWasZero_of_rsp {v : Nat} (h : s.rsp.get p = some ⟨.ok, v⟩) : s.lastWasZero p = decide (v = 0) := by
  simp [State.lastWasZero, isOkZero, h]

theorem boolValue_eq_zero {b : Bool} : boolValue b = 0 ↔ b = false := by cases b <;> simp [boolValue]

/-- The answer to a licensing query meets the guard of the request after it exactly when it is 0 (R104). -/
theorem lastWasZero_of_boolValue {b : Bool} (h : s.rsp.get p = some ⟨.ok, boolValue b⟩) : s.lastWasZero p = !b := by
  rw [lastWasZero_of_rsp h, decide_eq_decide.mpr boolValue_eq_zero]
  cases b <;> rfl

/-- The state between the two halves of `PUT` or `GET` under SC: port `p` has answered `OK v` to the query `i`. -/
def State.afterQuery (s : State) (p : Port) (i : Instr) (es : List Event) (rest : List Request) (v : Nat) : State :=
  ((s.withEvents es).accepting p i rest).respond .ok v

theorem afterQuery_inFlight {i : Instr} {rest : List Request} {v : Nat} (q : Port) :
    (s.afterQuery p i es rest v).inFlight q = s.inFlight q := by
  simp [State.afterQuery]

theorem afterQuery_lastWasZero {i : Instr} {rest : List Request} {b : Bool} :
    (s.afterQuery p i es rest (boolValue b)).lastWasZero p = !b :=
  lastWasZero_of_boolValue (PerPort.get_set_same _ _ _)

/-- The first half of `PUT` under SC. -/
theorem step_isfull_sc {b : Bool} {rest : List Request} (hsc : s.cfg.view = .sc) (hev : s.events = .turn p :: es)
    (hidle : s.inFlight p = false) (hreq : s.reqs.get p = .issue (encode s.cfg .isfull) b :: rest) :
    step s = .next (s.afterQuery p .isfull es rest (boolValue s.fullFlag)) := by
  rw [step_issue_encode hev hidle rfl hreq, exec_query rfl, State.observe_sc _ (by simpa using hsc),
    given_sc (by simpa using hsc), givenOccupied_sc (by simpa using hsc)]
  rfl

/-- The first half of `GET` under SC. -/
theorem step_isempty_sc {b : Bool} {rest : List Request} (hsc : s.cfg.view = .sc) (hev : s.events = .turn p :: es)
    (hidle : s.inFlight p = false) (hreq : s.reqs.get p = .issue (encode s.cfg .isempty) b :: rest) :
    step s = .next (s.afterQuery p .isempty es rest (boolValue s.emptyFlag)) := by
  rw [step_issue_encode hev hidle rfl hreq, exec_query rfl, State.observe_sc _ (by simpa using hsc),
    givenOccupied_sc (by simpa using hsc)]
  rfl

/-- Settles O40: the two halves of `PUT`, the second guarded by the flag that the first has answered. -/
theorem putWritesOnlyWhenNotFull : Obligations.PutWritesOnlyWhenNotFull := by
  intro s v es rest hsc hidle hev hreq
  let t := s.afterQuery .producer .isfull (.turn .producer :: es) ((putRequests s.cfg v).tail ++ rest) (boolValue s.fullFlag)
  have htidle : t.inFlight .producer = false := (afterQuery_inFlight _).trans hidle
  have hguard : t.lastWasZero .producer = !s.fullFlag := afterQuery_lastWasZero
  refine ⟨t, step_isfull_sc hsc hev hidle hreq, rfl, fun hfull => ?_, fun hroom => ?_⟩
  · exact step_drops (s := t) rfl htidle rfl (by rw [hguard, hfull]; rfl)
  · exact step_issueIfZero_encode (s := t) rfl htidle rfl rfl (by rw [hguard, hroom]; rfl)

/-- Settles O41: the two halves of `GET`, the second guarded by the flag that the first has answered. -/
theorem getReadsOnlyWhenNotEmpty : Obligations.GetReadsOnlyWhenNotEmpty := by
  intro s es rest hsc hidle hev hreq
  let t := s.afterQuery .consumer .isempty (.turn .consumer :: es) ((getRequests s.cfg).tail ++ rest) (boolValue s.emptyFlag)
  have htidle : t.inFlight .consumer = false := (afterQuery_inFlight _).trans hidle
  have hguard : t.lastWasZero .consumer = !s.emptyFlag := afterQuery_lastWasZero
  refine ⟨t, step_isempty_sc hsc hev hidle hreq, rfl, fun hempty => ?_, fun hdata => ?_⟩
  · exact step_drops (s := t) rfl htidle rfl (by rw [hguard, hempty]; rfl)
  · exact step_issueIfZero_encode (s := t) rfl htidle rfl rfl (by rw [hguard, hdata]; rfl)

end Sys2Proof.Machine
end

section
/-! PROOF. The queue of a run in contract (43_arithmetic_and_properties.md R203, R209): each update of the state keeps
`State.QueueSound`, if a `WRITE` that starts has room and a `READ` that starts has data. -/

namespace Sys2Proof.Machine

variable {s t : State}

/-! ### The slots -/

theorem nextWriteSlot_of_ne_counted (h : s.pPhase ≠ .counted) : s.nextWriteSlot = s.writeIndex := by
  unfold State.nextWriteSlot
  split
  · exact absurd ‹_› h
  · rfl

theorem nextWriteSlot_of_counted (h : s.pPhase = .counted) : s.nextWriteSlot = advIndex s.capacity s.writeIndex := by
  simp [State.nextWriteSlot, h]

theorem nextReadSlot_of_ne_counted (h : s.cPhase ≠ .counted) : s.nextReadSlot = s.readIndex := by
  unfold State.nextReadSlot
  split
  · exact absurd ‹_› h
  · rfl

theorem nextReadSlot_of_counted (h : s.cPhase = .counted) : s.nextReadSlot = advIndex s.capacity s.readIndex := by
  simp [State.nextReadSlot, h]

theorem State.Inv.nextReadSlot_lt (h : s.Inv) (hc : s.capacity ≠ 0) : s.nextReadSlot < s.capacity := by
  by_cases hp : s.cPhase = .counted
  · exact nextReadSlot_of_counted hp ▸ advIndex_lt hc
  · exact nextReadSlot_of_ne_counted hp ▸ (h.indices_lt hc).2

/-- With data in the queue and room for more, the next store and the next load go to different slots. -/
theorem State.QueueSound.nextSlots_ne (h : s.QueueSound) (hinv : s.Inv) (hdata : 0 < s.occupied)
    (hroom : s.occupied < s.capacity) : s.nextWriteSlot ≠ s.nextReadSlot := by
  have hc : s.capacity ≠ 0 := by omega
  intro heq
  rw [h.slots hc] at heq
  have : s.occupied = 0 := slot_offset_inj hroom (Nat.pos_of_ne_zero hc)
    (r := s.nextReadSlot) (by rw [heq, Nat.add_zero, Nat.mod_eq_of_lt (hinv.nextReadSlot_lt hc)])
  omega

/-! ### The updates -/

theorem State.QueueSound.withInputs (h : s.QueueSound) (es : List Event) (p : Port) (rs : PerPort (List Request))
    (cs : PerPort CheckAge) : State.QueueSound { s with events := es, port := p, reqs := rs, checks := cs } :=
  { h with }

theorem State.QueueSound.observe (h : s.QueueSound) : s.observe.QueueSound := by
  rw [observe_eq_withViews]
  exact { h with }

theorem State.QueueSound.respond (h : s.QueueSound) (e : Err) (v : Nat) : (s.respond e v).QueueSound := { h with }

theorem State.QueueSound.raise (h : s.QueueSound) (e : Err) : (s.raise e).QueueSound := h.respond e 0

theorem cleared_queueSound (c : Nat) (hp : s.inFlight .producer = false) (hq : s.inFlight .consumer = false) :
    (s.cleared c).QueueSound :=
  .fresh rfl rfl rfl rfl hp hq

theorem applyReset_queueSound (s : State) : s.applyReset.QueueSound :=
  .fresh rfl rfl rfl rfl (by simp) (by simp)

theorem State.QueueSound.passedWR0 (h : s.QueueSound) (v : Byte) (hidle : s.pPhase = .idle)
    (hroom : s.occupied < s.capacity) : (s.passedWR0 v).QueueSound where
  __ := h
  room _ := hroom
  stored_byte hp := by simp [hidle] at hp

/-- The store goes to a slot that holds no unread byte, so it leaves the byte that a `READ` in flight has loaded. -/
theorem State.QueueSound.afterWR1 (h : s.QueueSound) (hinv : s.Inv) (v : Byte) (hidle : s.pPhase = .idle)
    (hroom : s.occupied < s.capacity) : (s.afterWR1 v).QueueSound where
  __ := h
  slots hc := by
    have hslots := h.slots hc
    rw [nextWriteSlot_of_ne_counted (by simp [hidle])] at hslots
    rw [nextWriteSlot_of_ne_counted (by simp)]
    exact hslots
  room _ := hroom
  stored_byte _ := by rw [afterWR1_byteAt, State.afterWR1_writeIndex, if_pos rfl, State.afterWR1_pLatch]
  loaded_byte hl := by
    have hl' : s.cPhase = .loaded := hl
    have hne := h.nextSlots_ne hinv (h.data (.inr hl')) hroom
    rw [nextWriteSlot_of_ne_counted (by simp [hidle]), nextReadSlot_of_ne_counted (by simp [hl'])] at hne
    rw [afterWR1_byteAt, State.afterWR1_readIndex, if_neg hne.symm]
    exact h.loaded_byte hl'

theorem State.QueueSound.afterWR2 (h : s.QueueSound) (hinv : s.Inv) (hp : s.pPhase = .stored) :
    s.afterWR2.QueueSound := by
  have hroom := h.room (.inr hp)
  have hocc := afterWR2_occupied hinv.capacity_lt hroom
  exact {
    occupied_le := by rw [hocc]; exact hroom
    slots := fun hc => by
      have hslots := h.slots hc
      rw [nextWriteSlot_of_ne_counted (by simp [hp])] at hslots
      rw [nextWriteSlot_of_counted rfl, hocc]
      change advIndex s.capacity s.writeIndex = (s.nextReadSlot + (s.occupied + 1)) % s.capacity
      rw [hslots, advIndex_mod, Nat.add_assoc]
    room := by simp [Inv_pChecked_false hinv (by simp [hp])]
    data := fun _ => by omega
    stored_byte := by simp
    loaded_byte := h.loaded_byte }

theorem State.QueueSound.afterWR3 (h : s.QueueSound) (hinv : s.Inv) (hp : s.pPhase = .counted) :
    s.afterWR3.QueueSound where
  __ := h
  slots hc := by
    have hslots := h.slots hc
    rw [nextWriteSlot_of_counted hp] at hslots
    rw [nextWriteSlot_of_ne_counted (by simp)]
    exact hslots
  room := by simp [Inv_pChecked_false hinv (by simp [hp])]
  stored_byte := by simp

theorem State.QueueSound.passedRD0 (h : s.QueueSound) (hdata : 0 < s.occupied) : s.passedRD0.QueueSound where
  __ := h
  data _ := hdata

theorem State.QueueSound.afterRD1 (h : s.QueueSound) (hidle : s.cPhase = .idle) (hdata : 0 < s.occupied) :
    s.afterRD1.QueueSound where
  __ := h
  slots hc := by
    have hslots := h.slots hc
    rw [nextReadSlot_of_ne_counted (by simp [hidle])] at hslots
    rw [nextReadSlot_of_ne_counted (by simp)]
    exact hslots
  data _ := hdata
  loaded_byte _ := rfl

theorem State.QueueSound.afterRD2 (h : s.QueueSound) (hinv : s.Inv) (hp : s.cPhase = .loaded) :
    s.afterRD2.QueueSound := by
  have hdata := h.data (.inr hp)
  have hocc := afterRD2_occupied hdata
  have hle := h.occupied_le
  exact {
    occupied_le := by rw [hocc]; exact Nat.le_trans (Nat.sub_le _ _) hle
    slots := fun hc => by
      have hslots := h.slots hc
      rw [nextReadSlot_of_ne_counted (by simp [hp])] at hslots
      rw [nextReadSlot_of_counted rfl, hocc]
      change s.nextWriteSlot = (advIndex s.capacity s.readIndex + (s.occupied - 1)) % s.capacity
      rw [hslots, advIndex, Nat.mod_add_mod, Nat.add_assoc, Nat.add_sub_cancel' hdata]
    room := fun _ => by
      rw [hocc]
      change s.occupied - 1 < s.capacity
      omega
    data := by simp [Inv_cChecked_false hinv (by simp [hp])]
    stored_byte := h.stored_byte
    loaded_byte := by simp }

theorem State.QueueSound.afterRD3 (h : s.QueueSound) (hinv : s.Inv) (hp : s.cPhase = .counted) :
    s.afterRD3.QueueSound where
  __ := h
  slots hc := by
    have hslots := h.slots hc
    rw [nextReadSlot_of_counted hp] at hslots
    rw [nextReadSlot_of_ne_counted (by simp)]
    exact hslots
  data := by simp [Inv_cChecked_false hinv (by simp [hp])]
  loaded_byte := by simp

/-! ### Micro-steps -/

/-- What the contract asks of the command that a port runs (00_scope.md R12): a `WRITE` that starts, and that its check if it
has one lets pass, has room; so a `READ` has data; and where `INIT` tests no capacity it is given a legal one. -/
structure Licensed (i : Instr) (s : State) : Prop where
  write : ∀ v, i = .write v → s.port = .producer → s.inFlight .producer = false →
    (s.cfg.hardened = true → s.givenOccupied < s.given.capacity) → s.occupied < s.capacity
  read : i = .read → s.port = .consumer → s.inFlight .consumer = false →
    (s.cfg.hardened = true → s.givenOccupied ≠ 0) → 0 < s.occupied
  init : ∀ c, i = .init c → s.port = .controller → s.cfg.hardened = false → c ≤ capMax s.cfg

theorem observe_occupied (s : State) : s.observe.occupied = s.occupied := by simp [State.occupied]

/-- A reference block has no check to be past. -/
theorem Inv_pChecked_of_reference (h : s.Inv) (hh : s.cfg.hardened = false) : s.pChecked = false := by
  by_contra hc
  simp [(h.pChecked_idle (by simpa using hc)).1] at hh

theorem Inv_cChecked_of_reference (h : s.Inv) (hh : s.cfg.hardened = false) : s.cChecked = false := by
  by_contra hc
  simp [(h.cChecked_idle (by simpa using hc)).1] at hh

/-- A `WRITE` that a reference block starts has room. -/
theorem Licensed.room_of_reference {v : Byte} (h : Licensed (.write v) s) (hinv : s.Inv) (hport : s.port = .producer)
    (hidle : s.pPhase = .idle) (hh : s.cfg.hardened = false) : s.occupied < s.capacity :=
  h.write v rfl hport (not_inFlight_producer.mpr ⟨hidle, Inv_pChecked_of_reference hinv hh⟩) (by simp [hh])

/-- A `READ` that a reference block starts has data. -/
theorem Licensed.data_of_reference (h : Licensed .read s) (hinv : s.Inv) (hport : s.port = .consumer)
    (hidle : s.cPhase = .idle) (hh : s.cfg.hardened = false) : 0 < s.occupied :=
  h.read rfl hport (not_inFlight_consumer.mpr ⟨hidle, Inv_cChecked_of_reference hinv hh⟩) (by simp [hh])

theorem exec_queueSound {i : Instr} (hinv : s.Inv) (h : s.QueueSound) (hlic : Licensed i s) (he : exec i s = .next t) :
    t.QueueSound := by
  cases exec_did he with
  | illegal _ eq | invalid _ _ _ _ _ eq => exact eq ▸ h.raise _
  | answered _ eq => exact eq ▸ h.observe.respond _ _
  | installed _ hp hq _ eq | flushed _ hp hq eq => exact eq ▸ (cleared_queueSound _ hp hq).respond _ _
  | full _ _ _ _ _ eq | empty _ _ _ _ _ eq => exact eq ▸ h.observe.raise _
  | wr0 port phase _ checked room _ eq =>
    have hroom := hlic.write _ rfl port (not_inFlight_producer.mpr ⟨phase, checked⟩) fun _ => room
    exact eq ▸ h.observe.passedWR0 _ (by simpa using phase) (by simpa [observe_occupied] using hroom)
  | wr1 _ phase _ checked _ eq => exact eq ▸ h.afterWR1 hinv _ phase (h.room (.inl checked))
  | wr1Unchecked port phase hardened _ _ eq =>
    exact eq ▸ h.afterWR1 hinv _ phase (hlic.room_of_reference hinv port phase hardened)
  | wr2 _ phase eq => exact eq ▸ h.afterWR2 hinv phase
  | wr3 _ phase _ eq => exact eq ▸ (h.afterWR3 hinv phase).respond _ _
  | rd0 port phase _ checked data _ eq =>
    have hdata := hlic.read rfl port (not_inFlight_consumer.mpr ⟨phase, checked⟩) fun _ => data
    exact eq ▸ h.observe.passedRD0 (by simpa [observe_occupied] using hdata)
  | rd1 _ phase _ checked _ eq => exact eq ▸ h.afterRD1 phase (h.data (.inl checked))
  | rd1Unchecked port phase hardened _ _ eq =>
    exact eq ▸ h.afterRD1 phase (hlic.data_of_reference hinv port phase hardened)
  | rd2 _ phase eq => exact eq ▸ h.afterRD2 hinv phase
  | rd3 _ phase _ eq => exact eq ▸ (h.afterRD3 hinv phase).respond _ _

end Sys2Proof.Machine
end

section
/-! PROOF. The micro-steps of `WRITE` and `READ`, forwards (42_data_ops.md R160, R170): in which state each one answers, what it
leads to, and in which it has no meaning (R68, R175). -/

namespace Sys2Proof.Machine

variable {s : State} {v : Byte}

theorem orFault_of_none {f : Option Fault} (h : f = none) : orFault f s = .next s := orFault_next.mpr ⟨h, rfl⟩

theorem capacityFault_some (h : s.capacity = 0) : s.capacityFault = some .noCapacity := by simp [State.capacityFault, h]

theorem slotFault_some {cfg : Config} {slot : Nat} (h : cfg.depth ≤ slot) : slotFault cfg slot = some .storageRange := by
  simp [slotFault, h]

theorem accessFault_of_capacity {slot : Nat} (h : s.capacity = 0) : s.accessFault slot = some .noCapacity := by
  simp [State.accessFault, capacityFault_some h]

theorem accessFault_of_slot {slot : Nat} (hc : s.capacity ≠ 0) (h : s.cfg.depth ≤ slot) :
    s.accessFault slot = some .storageRange := by
  simp [State.accessFault, capacityFault_none.mpr hc, slotFault_some h]

/-! ### `WRITE` -/

/-- `WR0` or the refusal of a hardened `WRITE`. -/
theorem exec_write_check (hport : s.port = .producer) (hp : s.pPhase = .idle) (hh : s.cfg.hardened = true)
    (hchecked : s.pChecked = false) :
    exec (.write v) s =
      openingCheck (fullOf s.given.capacity s.givenOccupied) .full (s.observe.passedWR0 v) s := by
  simp [execWrite_producer hport, hp, hh, hchecked]

/-- `WR1` of a hardened `WRITE`. -/
theorem exec_write_store_checked (hport : s.port = .producer) (hp : s.pPhase = .idle) (hh : s.cfg.hardened = true)
    (hchecked : s.pChecked = true) :
    exec (.write v) s = orFault (slotFault s.cfg s.writeIndex) (s.afterWR1 v) := by
  simp [execWrite_producer hport, hp, hh, hchecked]

/-- `WR1` of a reference block, with what `WR0` tests of the capacity. -/
theorem exec_write_store_reference (hport : s.port = .producer) (hp : s.pPhase = .idle) (hh : s.cfg.hardened = false) :
    exec (.write v) s = orFault (s.accessFault s.writeIndex) (s.afterWR1 v) := by
  simp [execWrite_producer hport, hp, hh]

theorem exec_wr0 (hport : s.port = .producer) (hp : s.pPhase = .idle) (hh : s.cfg.hardened = true)
    (hchecked : s.pChecked = false) (hroom : s.givenOccupied < s.given.capacity) (hc : s.capacity ≠ 0) :
    exec (.write v) s = .next (s.observe.passedWR0 v) := by
  have hfull : fullOf s.given.capacity s.givenOccupied = false := decide_eq_false (Nat.not_le.mpr hroom)
  rw [exec_write_check hport hp hh hchecked, hfull]
  exact orFault_of_none (capacityFault_none.mpr hc)

theorem exec_wr1_checked (hport : s.port = .producer) (hp : s.pPhase = .idle) (hh : s.cfg.hardened = true)
    (hchecked : s.pChecked = true) (hslot : s.writeIndex < s.cfg.depth) :
    exec (.write v) s = .next (s.afterWR1 v) := by
  rw [exec_write_store_checked hport hp hh hchecked]
  exact orFault_of_none (slotFault_none.mpr hslot)

theorem exec_wr1_reference (hport : s.port = .producer) (hp : s.pPhase = .idle) (hh : s.cfg.hardened = false)
    (hc : s.capacity ≠ 0) (hslot : s.writeIndex < s.cfg.depth) : exec (.write v) s = .next (s.afterWR1 v) := by
  rw [exec_write_store_reference hport hp hh]
  exact orFault_of_none (accessFault_none.mpr ⟨hc, hslot⟩)

theorem exec_wr2 (hport : s.port = .producer) (hp : s.pPhase = .stored) : exec (.write v) s = .next s.afterWR2 := by
  rw [execWrite_producer hport, hp]

theorem exec_write_counted (hport : s.port = .producer) (hp : s.pPhase = .counted) :
    exec (.write v) s = orFault s.capacityFault (s.afterWR3.respond .ok 0) := by
  rw [execWrite_producer hport, hp]

theorem exec_wr3 (hport : s.port = .producer) (hp : s.pPhase = .counted) (hc : s.capacity ≠ 0) :
    exec (.write v) s = .next (s.afterWR3.respond .ok 0) := by
  rw [exec_write_counted hport hp]
  exact orFault_of_none (capacityFault_none.mpr hc)

/-! ### `READ` -/

/-- `RD0` or the refusal of a hardened `READ`. -/
theorem exec_read_check (hport : s.port = .consumer) (hp : s.cPhase = .idle) (hh : s.cfg.hardened = true)
    (hchecked : s.cChecked = false) :
    exec .read s = openingCheck (emptyOf s.givenOccupied) .empty s.observe.passedRD0 s := by
  simp [execRead_consumer hport, hp, hh, hchecked]

/-- `RD0` of a `READ` that its check lets pass. -/
theorem exec_read_check_passed (hport : s.port = .consumer) (hp : s.cPhase = .idle) (hh : s.cfg.hardened = true)
    (hchecked : s.cChecked = false) (hdata : s.givenOccupied ≠ 0) :
    exec .read s = orFault s.capacityFault s.observe.passedRD0 := by
  have hempty : emptyOf s.givenOccupied = false := decide_eq_false hdata
  rw [exec_read_check hport hp hh hchecked, hempty]
  rfl

/-- `RD1` of a hardened `READ`. -/
theorem exec_read_load_checked (hport : s.port = .consumer) (hp : s.cPhase = .idle) (hh : s.cfg.hardened = true)
    (hchecked : s.cChecked = true) : exec .read s = orFault (slotFault s.cfg s.readIndex) s.afterRD1 := by
  simp [execRead_consumer hport, hp, hh, hchecked]

/-- `RD1` of a reference block, with what `RD0` tests of the capacity. -/
theorem exec_read_load_reference (hport : s.port = .consumer) (hp : s.cPhase = .idle) (hh : s.cfg.hardened = false) :
    exec .read s = orFault (s.accessFault s.readIndex) s.afterRD1 := by
  simp [execRead_consumer hport, hp, hh]

theorem exec_rd0 (hport : s.port = .consumer) (hp : s.cPhase = .idle) (hh : s.cfg.hardened = true)
    (hchecked : s.cChecked = false) (hdata : s.givenOccupied ≠ 0) (hc : s.capacity ≠ 0) :
    exec .read s = .next s.observe.passedRD0 := by
  rw [exec_read_check_passed hport hp hh hchecked hdata]
  exact orFault_of_none (capacityFault_none.mpr hc)

theorem exec_rd1_checked (hport : s.port = .consumer) (hp : s.cPhase = .idle) (hh : s.cfg.hardened = true)
    (hchecked : s.cChecked = true) (hslot : s.readIndex < s.cfg.depth) : exec .read s = .next s.afterRD1 := by
  rw [exec_read_load_checked hport hp hh hchecked]
  exact orFault_of_none (slotFault_none.mpr hslot)

theorem exec_rd1_reference (hport : s.port = .consumer) (hp : s.cPhase = .idle) (hh : s.cfg.hardened = false)
    (hc : s.capacity ≠ 0) (hslot : s.readIndex < s.cfg.depth) : exec .read s = .next s.afterRD1 := by
  rw [exec_read_load_reference hport hp hh]
  exact orFault_of_none (accessFault_none.mpr ⟨hc, hslot⟩)

theorem exec_rd2 (hport : s.port = .consumer) (hp : s.cPhase = .loaded) : exec .read s = .next s.afterRD2 := by
  rw [execRead_consumer hport, hp]

theorem exec_read_counted (hport : s.port = .consumer) (hp : s.cPhase = .counted) :
    exec .read s = orFault s.capacityFault (s.afterRD3.respond .ok (byteValue s.cLatch)) := by
  rw [execRead_consumer hport, hp]

theorem exec_rd3 (hport : s.port = .consumer) (hp : s.cPhase = .counted) (hc : s.capacity ≠ 0) :
    exec .read s = .next (s.afterRD3.respond .ok (byteValue s.cLatch)) := by
  rw [exec_read_counted hport hp]
  exact orFault_of_none (capacityFault_none.mpr hc)

/-! ### The statements -/

/-- What enters the views with a counted `WRITE`, for both views at once. -/
theorem viewsAfterCountedWrite_eq_ite (s : State) :
    s.viewsAfterCountedWrite = if s.cfg.view = .sc then s.views else { s.views with
      cWriteCounts := s.views.cWriteCounts ++ [s.writeCount]
      xInstants := s.views.xInstants ++ [⟨s.writeCount, s.readCount, s.capacity⟩] } := by
  cases hv : s.cfg.view <;> simp [State.viewsAfterCountedWrite, hv, State.now]

/-- What enters the views with a counted `READ`, for both views at once. -/
theorem viewsAfterCountedRead_eq_ite (s : State) :
    s.viewsAfterCountedRead = if s.cfg.view = .sc then s.views else { s.views with
      pReadCounts := s.views.pReadCounts ++ [s.readCount]
      xInstants := s.views.xInstants ++ [⟨s.writeCount, s.readCount, s.capacity⟩] } := by
  cases hv : s.cfg.view <;> simp [State.viewsAfterCountedRead, hv, State.now]

/-- Settles O18: the micro-steps above, their states written out. -/
theorem writeMicroSteps : Obligations.WriteMicroSteps := by
  intro s v hport
  refine ⟨exec_wr0 hport, exec_wr1_checked hport, exec_wr1_reference hport, fun hp => ?_, fun hp hc => ?_⟩
  · rw [exec_wr2 hport hp, ← viewsAfterCountedWrite_eq_ite]
    rfl
  · rw [exec_wr3 hport hp hc, State.respond, State.afterWR3_port, hport]
    rfl

/-- Settles O19: the micro-steps above, their states written out. -/
theorem readMicroSteps : Obligations.ReadMicroSteps := by
  intro s hport
  refine ⟨exec_rd0 hport, exec_rd1_checked hport, exec_rd1_reference hport, fun hp => ?_, fun hp hc => ?_⟩
  · rw [exec_rd2 hport hp, ← viewsAfterCountedRead_eq_ite]
    rfl
  · rw [exec_rd3 hport hp hc, State.respond, State.afterRD3_port, hport]
    rfl

/-- Settles O30: in each micro-step that tests the capacity or the slot, the test that fails. -/
theorem dataOperationsFaultWithoutASlot : Obligations.DataOperationsFaultWithoutASlot := by
  intro s v
  refine ⟨fun hport => ⟨?_, ?_, ?_, ?_⟩, fun hport => ⟨?_, ?_, ?_, ?_, ?_⟩⟩
  · intro hp hh hc
    rw [exec_write_store_reference hport hp hh, accessFault_of_capacity hc, orFault]
  · intro hp hc
    rw [exec_write_counted hport hp, capacityFault_some hc, orFault]
  · intro hp hh hc hslot
    rw [exec_write_store_reference hport hp hh, accessFault_of_slot hc hslot, orFault]
  · intro hp hh hchecked hslot
    rw [exec_write_store_checked hport hp hh hchecked, slotFault_some hslot, orFault]
  · intro hp hh hc
    rw [exec_read_load_reference hport hp hh, accessFault_of_capacity hc, orFault]
  · intro hp hh hchecked hdata hc
    rw [exec_read_check_passed hport hp hh hchecked hdata, capacityFault_some hc, orFault]
  · intro hp hc
    rw [exec_read_counted hport hp, capacityFault_some hc, orFault]
  · intro hp hh hc hslot
    rw [exec_read_load_reference hport hp hh, accessFault_of_slot hc hslot, orFault]
  · intro hp hh hchecked hslot
    rw [exec_read_load_checked hport hp hh hchecked, slotFault_some hslot, orFault]

/-- Settles O60: each order is two micro-steps; only a store before the load reaches the loaded byte. -/
theorem sameSlotRaceAdmitsBothBytes : Obligations.SameSlotRaceAdmitsBothBytes := by
  intro s v hh hidleP hidleC hc hslot heq
  obtain ⟨hp, -⟩ := not_inFlight_producer.mp hidleP
  obtain ⟨hq, -⟩ := not_inFlight_consumer.mp hidleC
  have hload : s.readIndex < s.cfg.depth := heq ▸ hslot
  refine ⟨⟨_, _, exec_wr1_reference rfl hp hh hc hslot, exec_rd1_reference rfl hq hh hc hload, ?_⟩,
    ⟨_, _, exec_rd1_reference rfl hq hh hc hload, exec_wr1_reference rfl hp hh hc hslot, rfl⟩⟩
  refine Eq.trans ?_ (Memory.readByte_writeByte_same s.storage (slotAddress s.cfg s.writeIndex) v)
  exact congrArg (fun j => Memory.readByte (s.storedAt s.writeIndex v) (slotAddress s.cfg j)) heq

end Sys2Proof.Machine
end

section
/-! PROOF. Whole operations (42_data_ops.md R160, R163, R170, R173): the state after a `WRITE` or a `READ` that no other port
interrupts, what its registers say, and the bound on its micro-steps (70_reset_and_hazards.md R280). -/

namespace Sys2Proof.Machine

variable {s t : State} {v : Byte}

/-! ### From start to end -/

/-- The state after a `WRITE` that ran alone. -/
def State.afterWrite (s : State) (v : Byte) : State := (s.afterWR1 v).afterWR2.afterWR3.respond .ok 0

/-- The state after a `READ` that ran alone. -/
def State.afterRead (s : State) : State := s.afterRD1.afterRD2.afterRD3.respond .ok (byteValue (s.byteAt s.readIndex))

/-- From the store on, a `WRITE` alone takes three micro-steps. -/
theorem finish_write_from_store {n : Nat} (hport : s.port = .producer) (hc : s.capacity ≠ 0)
    (he : exec (.write v) s = .next (s.afterWR1 v)) : finish (n + 3) (.write v) s = .next (s.afterWrite v) := by
  rw [finish_goes_on he (by simp [hport, State.inFlight, WritePhase.busy]),
    finish_goes_on (s := s.afterWR1 v) (exec_wr2 hport rfl) (by simp [hport, State.inFlight, WritePhase.busy]),
    finish_ends (s := (s.afterWR1 v).afterWR2) (exec_wr3 hport rfl hc) (by simp [hport, State.inFlight, WritePhase.busy])]
  rfl

/-- From the load on, a `READ` alone takes three micro-steps. -/
theorem finish_read_from_load {n : Nat} (hport : s.port = .consumer) (hc : s.capacity ≠ 0)
    (he : exec .read s = .next s.afterRD1) : finish (n + 3) .read s = .next s.afterRead := by
  rw [finish_goes_on he (by simp [hport, State.inFlight, ReadPhase.busy]),
    finish_goes_on (s := s.afterRD1) (exec_rd2 hport rfl) (by simp [hport, State.inFlight, ReadPhase.busy]),
    finish_ends (s := s.afterRD1.afterRD2) (exec_rd3 hport rfl hc) (by simp [hport, State.inFlight, ReadPhase.busy])]
  rfl

theorem finish_write_reference (hport : s.port = .producer) (hidle : s.inFlight .producer = false)
    (hh : s.cfg.hardened = false) (hc : s.capacity ≠ 0) (hslot : s.writeIndex < s.cfg.depth) :
    finish 4 (.write v) s = .next (s.afterWrite v) :=
  finish_write_from_store hport hc (exec_wr1_reference hport (not_inFlight_producer.mp hidle).1 hh hc hslot)

theorem finish_read_reference (hport : s.port = .consumer) (hidle : s.inFlight .consumer = false)
    (hh : s.cfg.hardened = false) (hc : s.capacity ≠ 0) (hslot : s.readIndex < s.cfg.depth) :
    finish 4 .read s = .next s.afterRead :=
  finish_read_from_load hport hc (exec_rd1_reference hport (not_inFlight_consumer.mp hidle).1 hh hc hslot)

/-- A hardened `WRITE` begins with its check, which leaves nothing behind that the store does not set. -/
theorem finish_write_hardened_sc (hport : s.port = .producer) (hsc : s.cfg.view = .sc)
    (hidle : s.inFlight .producer = false) (hh : s.cfg.hardened = true) (hc : s.capacity ≠ 0)
    (hslot : s.writeIndex < s.cfg.depth) (hroom : s.occupied < s.capacity) :
    finish 4 (.write v) s = .next (s.afterWrite v) := by
  obtain ⟨hp, hchecked⟩ := not_inFlight_producer.mp hidle
  have hcheck := exec_wr0 (v := v) hport hp hh hchecked (by rwa [givenOccupied_sc hsc, given_sc hsc]) hc
  rw [State.observe_sc s hsc] at hcheck
  rw [finish_goes_on hcheck (by simp [hport, State.inFlight])]
  exact finish_write_from_store (n := 0) (s := s.passedWR0 v) hport hc (exec_wr1_checked hport hp hh rfl hslot)

/-- A hardened `READ` begins with its check, which leaves nothing behind that the load does not set. -/
theorem finish_read_hardened_sc (hport : s.port = .consumer) (hsc : s.cfg.view = .sc)
    (hidle : s.inFlight .consumer = false) (hh : s.cfg.hardened = true) (hc : s.capacity ≠ 0)
    (hslot : s.readIndex < s.cfg.depth) (hdata : s.occupied ≠ 0) : finish 4 .read s = .next s.afterRead := by
  obtain ⟨hp, hchecked⟩ := not_inFlight_consumer.mp hidle
  have hcheck := exec_rd0 hport hp hh hchecked (by rwa [givenOccupied_sc hsc]) hc
  rw [State.observe_sc s hsc] at hcheck
  rw [finish_goes_on hcheck (by simp [hport, State.inFlight])]
  exact finish_read_from_load (n := 0) (s := s.passedRD0) hport hc (exec_rd1_checked hport hp hh rfl hslot)

/-! ### The states they lead to -/

/-- Under SC a `WRITE` that ran alone leaves its port idle, and no view has changed. -/
theorem afterWrite_eq (hport : s.port = .producer) (hsc : s.cfg.view = .sc) (hidle : s.inFlight .producer = false) :
    s.afterWrite v = { s with
      storage := s.storedAt s.writeIndex v, writeCount := incW s.cfg s.writeCount
      writeIndex := advIndex s.capacity s.writeIndex, pLatch := v
      rsp := s.rsp.set .producer (some ⟨.ok, 0⟩) } := by
  obtain ⟨hp, hchecked⟩ := not_inFlight_producer.mp hidle
  have hviews : (s.afterWR1 v).viewsAfterCountedWrite = s.views := viewsAfterCountedWrite_sc hsc
  apply State.ext <;> simp [State.afterWrite, hport, hp, hchecked, hviews]

/-- Under SC a `READ` that ran alone leaves its port idle, and no view has changed. -/
theorem afterRead_eq (hport : s.port = .consumer) (hsc : s.cfg.view = .sc) (hidle : s.inFlight .consumer = false) :
    s.afterRead = { s with
      readCount := incW s.cfg s.readCount, readIndex := advIndex s.capacity s.readIndex
      cLatch := s.byteAt s.readIndex
      rsp := s.rsp.set .consumer (some ⟨.ok, byteValue (s.byteAt s.readIndex)⟩) } := by
  obtain ⟨hp, hchecked⟩ := not_inFlight_consumer.mp hidle
  have hviews : s.afterRD1.viewsAfterCountedRead = s.views := viewsAfterCountedRead_sc hsc
  apply State.ext <;> simp [State.afterRead, hport, hp, hchecked, hviews]

/-- Settles O20: a reference block starts with the store, a hardened one with a check that passes. -/
theorem writeAloneStoresCountsAndAdvances : Obligations.WriteAloneStoresCountsAndAdvances := by
  intro s v hport hsc hidle hc hslot hroom
  have hfinish : finish 4 (.write v) s = .next (s.afterWrite v) := by
    cases hh : s.cfg.hardened with
    | false => exact finish_write_reference hport hidle hh hc hslot
    | true => exact finish_write_hardened_sc hport hsc hidle hh hc hslot (hroom hh)
  exact ⟨_, hfinish, Memory.readByte_writeByte_same _ _ _, fun a ha => Memory.readByte_writeByte_other _ _ ha,
    afterWrite_eq hport hsc hidle⟩

/-- Settles O21: a reference block starts with the load, a hardened one with a check that passes. -/
theorem readAloneLoadsCountsAndAdvances : Obligations.ReadAloneLoadsCountsAndAdvances := by
  intro s hport hsc hidle hc hslot hdata
  refine Eq.trans ?_ (congrArg _ (afterRead_eq hport hsc hidle))
  cases hh : s.cfg.hardened with
  | false => exact finish_read_reference hport hidle hh hc hslot
  | true => exact finish_read_hardened_sc hport hsc hidle hh hc hslot (hdata hh)

/-! ### Out of contract -/

/-- A whole `WRITE` counts, whatever the occupancy. -/
theorem afterWrite_occupied : (s.afterWrite v).occupied = (s.occupied + 1) % s.cfg.range :=
  subW_inc_left_mod s.cfg s.writeCount s.readCount

/-- One more than the capacity leaves `2^W - 1` free slots by R146. -/
theorem spaceOf_succ {cfg : Config} {c : Nat} : spaceOf cfg c ((c + 1) % cfg.range) = cfg.range - 1 := by
  have hr := cfg.range_pos
  refine subW_unique cfg (by omega) ?_
  rw [Nat.mod_add_mod, Nat.add_assoc, Nat.add_sub_cancel' hr, Nat.add_mod_right]

/-- Settles O28: on a full queue the slot of the next store is that of the oldest byte. -/
theorem uncheckedWriteOnFullOverwritesTheOldest : Obligations.UncheckedWriteOnFullOverwritesTheOldest := by
  intro s v hport hh hidle hc hlt hslot hfull heq
  have hoccupied : (s.afterWrite v).occupied = (s.capacity + 1) % s.cfg.range := hfull ▸ afterWrite_occupied
  refine ⟨_, finish_write_reference hport hidle hh hc hslot, ?_, ?_, hoccupied, fun hwrap => ?_, ?_⟩
  · simp [State.afterWrite, hport]
  · rw [show (s.afterWrite v).readIndex = s.writeIndex from heq.symm]
    exact Memory.readByte_writeByte_same _ _ _
  · have hwrap' : s.capacity + 1 < s.cfg.range := hwrap
    rw [State.fullFlag, hoccupied, Nat.mod_eq_of_lt hwrap']
    exact decide_eq_true (Nat.le_succ s.capacity)
  · rw [State.availSpace, hoccupied]
    exact spaceOf_succ

/-- Counting a `READ` of an empty queue wraps the occupancy to its largest value. -/
theorem afterRead_occupied_of_empty (h : s.occupied = 0) : s.afterRead.occupied = s.cfg.range - 1 := by
  have hr := s.cfg.range_pos
  refine subW_unique s.cfg (by omega) ?_
  change s.writeCount % s.cfg.range = (incW s.cfg s.readCount + (s.cfg.range - 1)) % s.cfg.range
  rw [incW, Nat.mod_add_mod, Nat.add_assoc, Nat.add_sub_cancel' hr, Nat.add_mod_right]
  exact (subW_eq_zero_iff s.cfg _ _).mp h

/-- The largest occupancy leaves the space of one more than the capacity by R146. -/
theorem spaceOf_max {cfg : Config} {c : Nat} : spaceOf cfg c (cfg.range - 1) = (c + 1) % cfg.range := by
  have hr := cfg.range_pos
  refine subW_unique cfg (Nat.mod_lt _ hr) ?_
  rw [Nat.add_mod_mod, show cfg.range - 1 + (c + 1) = c + cfg.range by omega, Nat.add_mod_right]

/-- Settles O29: the counter of reads passes that of writes, and the occupancy wraps. -/
theorem uncheckedReadOnEmptyReturnsTheStaleByte : Obligations.UncheckedReadOnEmptyReturnsTheStaleByte := by
  intro s hport hh hidle hw hc hlt hslot hempty
  have hoccupied := afterRead_occupied_of_empty hempty
  have hrange : 2 ≤ s.cfg.range := Nat.pow_le_pow_right (n := 2) (by decide) hw
  have hlt' : s.capacity < s.cfg.range := hlt
  refine ⟨_, finish_read_reference hport hidle hh hc hslot, ?_, hoccupied, ?_, ?_, hoccupied, ?_⟩
  · simp [State.afterRead, hport, byteValue]
  · rw [State.emptyFlag, hoccupied]
    exact decide_eq_false (by omega)
  · rw [State.fullFlag, hoccupied]
    exact decide_eq_true (Nat.le_sub_one_of_lt hlt')
  · rw [State.availSpace, hoccupied]
    exact spaceOf_max

/-! ### The bound -/

/-- How many micro-steps the operation on the current port may still take. -/
def State.microStepsLeft (s : State) : Nat :=
  match s.port with
  | .producer =>
    match s.pPhase with
    | .idle => if s.pChecked then 3 else 4
    | .stored => 2
    | .counted => 1
  | .consumer =>
    match s.cPhase with
    | .idle => if s.cChecked then 3 else 4
    | .loaded => 2
    | .counted => 1
  | .controller => 1

theorem microStepsLeft_pos (s : State) : 0 < s.microStepsLeft := by
  unfold State.microStepsLeft
  repeat' split
  all_goals decide

theorem microStepsLeft_le (s : State) : s.microStepsLeft ≤ 4 := by
  unfold State.microStepsLeft
  repeat' split
  all_goals decide

/-- The operation a port is inside is its data operation. -/
theorem isDataOpOn_of_inFlightInstr {p : Port} {i : Instr} (h : s.inFlightInstr p = some i) : isDataOpOn p i = true := by
  cases p with
  | producer => rw [(inFlightInstr_producer h).1]; rfl
  | consumer => rw [(inFlightInstr_consumer h).1]; rfl
  | controller => simp at h

theorem isDataOpOn_cases {p : Port} {i : Instr} (h : isDataOpOn p i = true) :
    (p = .producer ∧ ∃ v, i = .write v) ∨ (p = .consumer ∧ i = .read) := by
  cases p with
  | producer =>
    cases i with
    | write v => exact .inl ⟨rfl, v, rfl⟩
    | init | isempty | isfull | availdata | availspace | read | flush => cases h
  | consumer =>
    cases i with
    | read => exact .inr ⟨rfl, rfl⟩
    | init | isempty | isfull | availdata | availspace | write | flush => cases h
  | controller => cases h

theorem isDataOpOn_legal {p : Port} {i : Instr} (h : isDataOpOn p i = true) : legalOn i p = true := by
  rcases isDataOpOn_cases h with ⟨rfl, v, rfl⟩ | ⟨rfl, rfl⟩ <;> rfl

theorem isDataOpOn_not_query {p : Port} {i : Instr} (h : isDataOpOn p i = true) : queryValue i s = none := by
  rcases isDataOpOn_cases h with ⟨rfl, v, rfl⟩ | ⟨rfl, rfl⟩ <;> rfl

/-- A micro-step on an idle port, or of the data operation its port is inside, ends with a response or leaves fewer to go. -/
theorem exec_ends_or_goes_on {i : Instr} (hinv : s.Inv) (hop : s.inFlight s.port = false ∨ isDataOpOn s.port i = true)
    (he : exec i s = .next t) :
    (t.inFlight s.port = false ∧ t.rsp.get s.port ≠ none) ∨
      (isDataOpOn s.port i = true ∧ t.inFlight s.port = true ∧ t.microStepsLeft < s.microStepsLeft) := by
  have ends {u : State} {e : Err} {v : Nat} (hport : u.port = s.port) (hidle : u.inFlight s.port = false)
      (eq : t = u.respond e v) : t.inFlight s.port = false ∧ t.rsp.get s.port ≠ none := by
    subst eq
    simp [hport, hidle]
  cases exec_did he with
  | illegal legal eq =>
    refine .inl (ends rfl (hop.resolve_right fun hd => ?_) eq)
    simp [isDataOpOn_legal hd] at legal
  | answered value eq =>
    refine .inl (ends (by simp) ?_ eq)
    rw [State.observe_inFlight]
    refine hop.resolve_right fun hd => ?_
    simp [isDataOpOn_not_query hd] at value
  | invalid port _ _ _ _ eq | installed port _ _ _ eq | flushed port _ _ eq =>
    exact .inl (ends (by simp) (by rw [port]; rfl) eq)
  | full port phase _ checked _ eq =>
    exact .inl (ends (by simp) (by simpa [port] using not_inFlight_producer.mpr ⟨phase, checked⟩) eq)
  | empty port phase _ checked _ eq =>
    exact .inl (ends (by simp) (by simpa [port] using not_inFlight_consumer.mpr ⟨phase, checked⟩) eq)
  | wr3 port phase _ eq =>
    have hchecked := Inv_pChecked_false hinv (by simp [phase])
    exact .inl (ends (by simp) (by rw [port]; exact not_inFlight_producer.mpr ⟨rfl, hchecked⟩) eq)
  | rd3 port phase _ eq =>
    have hchecked := Inv_cChecked_false hinv (by simp [phase])
    exact .inl (ends (by simp) (by rw [port]; exact not_inFlight_consumer.mpr ⟨rfl, hchecked⟩) eq)
  -- the silent micro-steps
  | wr0 port phase _ checked | wr2 port phase | rd0 port phase _ checked | rd2 port phase =>
    refine .inr ⟨by rw [port]; rfl, ?_⟩
    subst t
    simp [State.microStepsLeft, State.inFlight, WritePhase.busy, ReadPhase.busy, *]
  | wr1 port phase | wr1Unchecked port phase | rd1 port phase | rd1Unchecked port phase =>
    refine .inr ⟨by rw [port]; rfl, by subst t; rw [port]; rfl, ?_⟩
    subst t
    simp only [State.microStepsLeft, State.afterWR1_port, State.afterWR1_pPhase, State.afterRD1_port,
      State.afterRD1_cPhase, port, phase]
    split <;> decide

/-- A run of `n` micro-steps of one operation reaches its end, if no more than `n` are left. -/
theorem finish_ends_within {i : Instr} (n : Nat) (hinv : s.Inv)
    (hop : s.inFlight s.port = false ∨ isDataOpOn s.port i = true) (hn : s.microStepsLeft ≤ n)
    (hf : finish n i s = .next t) : t.port = s.port ∧ t.inFlight s.port = false ∧ t.rsp.get s.port ≠ none := by
  induction n generalizing s with
  | zero => exact absurd (microStepsLeft_pos s) (by omega)
  | succ n ih =>
    cases he : exec i s with
    | fault e => simp [finish, he] at hf
    | refused r => simp [finish, he] at hf
    | next u =>
      have hport := exec_port he
      cases hu : u.inFlight u.port with
      | false =>
        rw [finish_ends he hu] at hf
        cases hf
        rw [hport] at hu
        rcases exec_ends_or_goes_on hinv hop he with hend | ⟨-, hbusy, -⟩
        · exact ⟨hport, hend⟩
        · simp [hu] at hbusy
      | true =>
        rw [finish_goes_on he hu] at hf
        rcases exec_ends_or_goes_on hinv hop he with ⟨hidle, -⟩ | ⟨hop', -, hleft⟩
        · simp [← hport, hu] at hidle
        · rw [← hport] at hop' ⊢
          exact ih (exec_inv hinv he) (.inr hop') (by omega) hf

/-- Settles O31: an operation has at most four micro-steps left, and each one that does not end it leaves fewer. -/
theorem operationsEndWithinFourMicroSteps : Obligations.OperationsEndWithinFourMicroSteps := by
  intro i s t hinv hop hf
  exact finish_ends_within 4 hinv (hop.imp_right isDataOpOn_of_inFlightInstr) (microStepsLeft_le s) hf

end Sys2Proof.Machine
end

section
/-! PROOF. Runs in contract (00_scope.md R12, 43_arithmetic_and_properties.md R209): in a sound state a licensed micro-step meets
no model fault and leads to a sound state. -/

namespace Sys2Proof.Machine

variable {s t u : State} {p : Port} {es : List Event} {i : Instr} {o : Option Instr}

theorem capMax_le_depth (cfg : Config) : capMax cfg ≤ cfg.depth := Nat.min_le_right _ _

theorem exec_sound (h : s.Sound) (hlic : Licensed i s) (he : exec i s = .next t) : t.Sound where
  inv := exec_inv h.inv he
  queue := exec_queueSound h.inv h.queue hlic he
  capacity_le_depth := by
    rw [exec_cfg he]
    rcases exec_capacity he with hc | ⟨c, rfl, hport, hlegal, hc⟩
    · exact hc ▸ h.capacity_le_depth
    · refine Nat.le_trans ?_ (capMax_le_depth s.cfg)
      rw [hc]
      cases hh : s.cfg.hardened with
      | true => exact capacityOperand_legal (hlegal hh)
      | false =>
        have hmax := hlic.init c rfl hport hh
        rwa [capacityOperand_of_le s.cfg hmax]
  requests_fit q r hr := by
    rw [exec_reqs he] at hr
    exact exec_cfg he ▸ h.requests_fit q r hr

/-! ### No model fault -/

/-- `INIT` and `FLUSH` find both data ports idle (40_lifecycle_ops.md R124, R132). -/
def ExclusiveIfLifecycle (i : Instr) (s : State) : Prop :=
  (i = .flush ∨ ∃ c, i = .init c) → s.port = .controller → s.inFlight .producer = false ∧ s.inFlight .consumer = false

theorem State.Sound.writeIndex_lt_depth (h : s.Sound) (hc : s.capacity ≠ 0) : s.writeIndex < s.cfg.depth :=
  Nat.lt_of_lt_of_le (h.inv.indices_lt hc).1 h.capacity_le_depth

theorem State.Sound.readIndex_lt_depth (h : s.Sound) (hc : s.capacity ≠ 0) : s.readIndex < s.cfg.depth :=
  Nat.lt_of_lt_of_le (h.inv.indices_lt hc).2 h.capacity_le_depth

/-- A check that refuses answers, and one that lets pass goes on, with a capacity. -/
theorem openingCheck_next {refused : Bool} {e : Err} {passed : State} (h : refused = false → s.capacity ≠ 0) :
    ∃ t, openingCheck refused e passed s = .next t := by
  cases hr : refused with
  | true => exact ⟨_, openingCheck_refused⟩
  | false => exact ⟨passed, orFault_of_none (capacityFault_none.mpr (h hr))⟩

theorem exec_write_answers {v : Byte} (h : s.Sound) (hlic : Licensed (.write v) s) (hport : s.port = .producer) :
    ∃ t, exec (.write v) s = .next t := by
  cases hp : s.pPhase with
  | idle =>
    cases hh : s.cfg.hardened with
    | false =>
      have hroom := hlic.room_of_reference h.inv hport hp hh
      have hc : s.capacity ≠ 0 := by omega
      exact ⟨_, exec_wr1_reference hport hp hh hc (h.writeIndex_lt_depth hc)⟩
    | true =>
      cases hchecked : s.pChecked with
      | false =>
        rw [exec_write_check hport hp hh hchecked]
        refine openingCheck_next fun hfull => ?_
        obtain ⟨r, -, hgiven⟩ := given_producer hport
        rw [hgiven] at hfull
        have : ¬s.capacity ≤ s.givenOccupied := of_decide_eq_false hfull
        omega
      | true =>
        have hc := h.inv.capacity_ne_zero (.inl (inFlight_of_pChecked hchecked))
        exact ⟨_, exec_wr1_checked hport hp hh hchecked (h.writeIndex_lt_depth hc)⟩
  | stored => exact ⟨_, exec_wr2 hport hp⟩
  | counted => exact ⟨_, exec_wr3 hport hp (h.inv.capacity_ne_zero (.inl (inFlight_of_pPhase (by simp [hp]))))⟩

/-- Without a capacity every snapshot shows an empty queue (R39, R41). -/
theorem State.Inv.givenOccupied_of_created (h : s.Inv) (hc : s.capacity = 0) : s.givenOccupied = 0 := by
  obtain ⟨-, -, hwc, hrc, hviews, -, -⟩ := h.created hc
  rw [givenOccupied_fresh hviews, State.occupied, occupiedOf, hwc, hrc, subW_self]

theorem exec_read_answers (h : s.Sound) (hlic : Licensed .read s) (hport : s.port = .consumer) :
    ∃ t, exec .read s = .next t := by
  cases hp : s.cPhase with
  | idle =>
    cases hh : s.cfg.hardened with
    | false =>
      have hdata := hlic.data_of_reference h.inv hport hp hh
      have hle := h.queue.occupied_le
      have hc : s.capacity ≠ 0 := by omega
      exact ⟨_, exec_rd1_reference hport hp hh hc (h.readIndex_lt_depth hc)⟩
    | true =>
      cases hchecked : s.cChecked with
      | false =>
        rw [exec_read_check hport hp hh hchecked]
        exact openingCheck_next fun hempty hc => of_decide_eq_false hempty (h.inv.givenOccupied_of_created hc)
      | true =>
        have hc := h.inv.capacity_ne_zero (.inr (inFlight_of_cChecked hchecked))
        exact ⟨_, exec_rd1_checked hport hp hh hchecked (h.readIndex_lt_depth hc)⟩
  | loaded => exact ⟨_, exec_rd2 hport hp⟩
  | counted => exact ⟨_, exec_rd3 hport hp (h.inv.capacity_ne_zero (.inr (inFlight_of_cPhase (by simp [hp]))))⟩

theorem execInit_controller {c : Nat} (hport : s.port = .controller) :
    exec (.init c) s = orFault s.exclusiveFault
      (if s.cfg.hardened && invalidCapacity s.cfg c then s.raise .invalidCapacity
        else (s.cleared (capacityOperand s.cfg c)).respond .ok 0) :=
  onLegalPort_legal (legalOn_init.mpr hport)

theorem execFlush_controller (hport : s.port = .controller) :
    exec .flush s = orFault s.exclusiveFault ((s.cleared s.capacity).respond .ok 0) :=
  onLegalPort_legal (legalOn_flush.mpr hport)

/-- In contract every operation answers. -/
theorem exec_answers (h : s.Sound) (hlic : Licensed i s) (hexcl : ExclusiveIfLifecycle i s) : ∃ t, exec i s = .next t := by
  cases hl : legalOn i s.port with
  | false => exact ⟨_, exec_illegal hl⟩
  | true =>
    cases i with
    | init c =>
      have hport := legalOn_init.mp hl
      rw [execInit_controller hport]
      exact ⟨_, orFault_of_none (exclusiveFault_none.mpr (hexcl (.inr ⟨c, rfl⟩) hport))⟩
    | flush =>
      have hport := legalOn_flush.mp hl
      rw [execFlush_controller hport]
      exact ⟨_, orFault_of_none (exclusiveFault_none.mpr (hexcl (.inl rfl) hport))⟩
    | isempty | isfull | availdata | availspace => exact ⟨_, exec_query rfl⟩
    | write v => exact exec_write_answers h hlic (legalOn_write.mp hl)
    | read => exact exec_read_answers h hlic (legalOn_read.mp hl)

/-! ### Steps -/

theorem Turn.inFlight (h : Turn s p es o u) (q : Port) : u.inFlight q = s.inFlight q := by
  rw [h.eq_inputs]
  cases q <;> rfl

theorem Turn.sound (h : Turn s p es o u) (hs : s.Sound) : u.Sound := by
  have hfit : u.requestsFit := fun q r hr => by
    have hcfg : u.cfg = s.cfg := by rw [h.eq_inputs]
    exact hcfg ▸ hs.requests_fit q r ((h.reqs_suffix q).subset hr)
  rw [h.eq_inputs] at hfit ⊢
  exact ⟨hs.inv.withInputs _ _ _ _, hs.queue.withInputs _ _ _ _, hs.capacity_le_depth, hfit⟩

/-- In contract no word is too wide for the wires. -/
theorem State.Sound.step_turn (hs : s.Sound) (hev : s.events = .turn p :: es) :
    (∃ i u, Turn s p es (some i) u ∧ step s = exec i u) ∨ ∃ u, Turn s p es none u ∧ step s = .next u := by
  rcases step_turn_cases hev with hrun | hnone | ⟨q, rest, e, hreq, hd, -⟩
  · exact .inl hrun
  · exact .inr hnone
  · obtain ⟨i, hok, -⟩ := decode_of_lt (hs.requests_fit p q (by simp [hreq]))
    rw [hok] at hd
    cases hd

theorem applyReset_sound (hs : s.Sound) (es : List Event) : (s.withEvents es).applyReset.Sound where
  inv := (hs.inv.withInputs es s.port s.reqs s.checks).applyReset
  queue := applyReset_queueSound _
  capacity_le_depth := Nat.zero_le _
  requests_fit := hs.requests_fit

/-- A step from a sound state leads to one, if the command that it runs is licensed. -/
theorem step_sound_of_licensed (hs : s.Sound) (he : step s = .next t)
    (hlic : ∀ p es i u, s.events = .turn p :: es → Turn s p es (some i) u → Licensed i u) : t.Sound := by
  rcases step_cases he with ⟨-, rfl⟩ | ⟨es, -, rfl⟩ | ⟨p, es, hev, hturn | ⟨i, u, hturn, hx⟩⟩
  · exact hs
  · exact applyReset_sound hs es
  · exact hturn.sound hs
  · exact exec_sound (hturn.sound hs) (hlic p es i u hev hturn) hx

/-- A step from a sound state has a meaning, if the command that it runs is licensed and finds the exclusive access it needs. -/
theorem step_answers (hs : s.Sound)
    (hlic : ∀ p es i u, s.events = .turn p :: es → Turn s p es (some i) u → Licensed i u ∧ ExclusiveIfLifecycle i u) :
    ∃ t, step s = .next t := by
  match hev : s.events with
  | [] => exact ⟨s, by simp [step, hev]⟩
  | .reset :: es => exact ⟨(s.withEvents es).applyReset, by simp [step, hev]⟩
  | .turn p :: es =>
    rcases hs.step_turn hev with ⟨i, u, hturn, hstep⟩ | ⟨u, -, hstep⟩
    · obtain ⟨hl, hx⟩ := hlic p es i u hev hturn
      exact hstep ▸ exec_answers (hturn.sound hs) hl hx
    · exact ⟨u, hstep⟩

/-! ### In contract -/

theorem fullFlag_eq_false : s.fullFlag = false ↔ s.occupied < s.capacity := by simp [State.fullFlag, fullOf]

theorem emptyFlag_eq_false : s.emptyFlag = false ↔ 0 < s.occupied := by
  simp [State.emptyFlag, emptyOf, Nat.pos_iff_ne_zero]

theorem quiescent_inFlight (h : s.quiescent p = true) : s.inFlight p = false := by
  simp only [State.quiescent, Bool.and_eq_true, Bool.not_eq_true'] at h
  exact h.1

theorem Turn.occupied (h : Turn s p es o u) : u.occupied = s.occupied := by rw [h.eq_inputs]; rfl

theorem Turn.capacity (h : Turn s p es o u) : u.capacity = s.capacity := by rw [h.eq_inputs]

theorem Turn.cfg (h : Turn s p es o u) : u.cfg = s.cfg := by rw [h.eq_inputs]

/-- A legal command that a step in contract issues is one that R12 allows. -/
theorem Turn.allows (h : Turn s p es (some i) u) (hev : s.events = .turn p :: es) (hin : s.inContract)
    (hidle : u.inFlight p = false) (hl : legalOn i p = true) : s.allows i :=
  hin p es hev (by rwa [← h.inFlight]) i h.nextCommand hl

theorem Turn.licensed (h : Turn s p es (some i) u) (hev : s.events = .turn p :: es) (hin : s.inContract) : Licensed i u where
  write v hi hport hidle _ := by
    subst hi
    have hp : p = .producer := h.port_eq.symm.trans hport
    have hallow : s.fullFlag = false := h.allows hev hin (hp ▸ hidle) (legalOn_write.mpr hp)
    rw [h.occupied, h.capacity]
    exact fullFlag_eq_false.mp hallow
  read hi hport hidle _ := by
    subst hi
    have hp : p = .consumer := h.port_eq.symm.trans hport
    have hallow : s.emptyFlag = false := h.allows hev hin (hp ▸ hidle) (legalOn_read.mpr hp)
    rw [h.occupied]
    exact emptyFlag_eq_false.mp hallow
  init c hi hport _ := by
    subst hi
    have hp : p = .controller := h.port_eq.symm.trans hport
    obtain ⟨-, -, -, hmax⟩ : s.allows (.init c) := h.allows hev hin (hp ▸ rfl) (legalOn_init.mpr hp)
    exact h.cfg ▸ hmax

theorem Turn.exclusive (h : Turn s p es (some i) u) (hev : s.events = .turn p :: es) (hin : s.inContract) :
    ExclusiveIfLifecycle i u := by
  intro hi hport
  have hp : p = .controller := h.port_eq.symm.trans hport
  have hquiet : s.quiescent .producer = true ∧ s.quiescent .consumer = true := by
    rcases hi with rfl | ⟨c, rfl⟩
    · exact h.allows hev hin (hp ▸ rfl) (legalOn_flush.mpr hp)
    · obtain ⟨hP, hC, -, -⟩ : s.allows (.init c) := h.allows hev hin (hp ▸ rfl) (legalOn_init.mpr hp)
      exact ⟨hP, hC⟩
  rw [h.inFlight, h.inFlight]
  exact ⟨quiescent_inFlight hquiet.1, quiescent_inFlight hquiet.2⟩

theorem step_sound (hs : s.Sound) (hin : s.inContract) (he : step s = .next t) : t.Sound :=
  step_sound_of_licensed hs he fun _ _ _ _ hev hturn => hturn.licensed hev hin

theorem step_answers_inContract (hs : s.Sound) (hin : s.inContract) : ∃ t, step s = .next t :=
  step_answers hs fun _ _ _ _ hev hturn => ⟨hturn.licensed hev hin, hturn.exclusive hev hin⟩

/-- A run in contract meets no model fault and ends in a sound state (R12, R209). -/
theorem run_sound {n : Nat} (hs : s.Sound) (hrun : runInContract n s) :
    ∃ t, Host.Core.run Sys2Proof.core n s = .next t ∧ t.Sound := by
  induction n generalizing s with
  | zero => exact ⟨s, rfl, hs⟩
  | succ n ih =>
    obtain ⟨hin, hrest⟩ := hrun
    obtain ⟨u, hu⟩ := step_answers_inContract hs hin
    simpa only [run_succ, hu] using ih (step_sound hs hin hu) (hrest u hu)

end Sys2Proof.Machine
end

section
/-! PROOF. What the ports may be given late (20_memory.md R81): each update of the state keeps `State.ViewsSafe`, if on a
reference block the data operations start only where every value their port may be given licenses them (R208). -/

namespace Sys2Proof.Machine

variable {s t : State}

/-! ### Lists of occupancies -/

/-- In an ordered list the first value is related to every one. -/
theorem rel_of_head {α : Type} {r : α → α → Prop} (hr : ∀ a, r a a) {l : List α} {x a : α} (h : l.Pairwise r)
    (hx : l.head? = some x) (ha : a ∈ l) : r x a := by
  cases l with
  | nil => cases hx
  | cons y ys =>
    cases hx
    rcases List.mem_cons.mp ha with rfl | ha
    · exact hr a
    · exact List.rel_of_pairwise_cons h ha

/-- An ordered list stays ordered with one more value at its end that every one is related to. -/
theorem pairwise_concat {α : Type} {r : α → α → Prop} {l : List α} {x : α} (h : l.Pairwise r) (hx : ∀ a ∈ l, r a x) :
    (l ++ [x]).Pairwise r :=
  List.pairwise_append.mpr ⟨h, List.pairwise_singleton _ _, fun a ha _ hb => List.mem_singleton.mp hb ▸ hx a ha⟩

/-! ### Licences -/

theorem roomForP_observe (h : s.roomForP) : s.observe.roomForP := fun r hr => by
  simpa using h r ((observe_readCountsForP s).subset hr)

theorem dataForC_observe (h : s.dataForC) : s.observe.dataForC := fun w hw => by
  simpa using h w ((observe_writeCountsForC s).subset hw)

theorem roomForP_cleared {c : Nat} (hc : c ≠ 0) : (s.cleared c).roomForP := fun r hr => by
  have hr : r = 0 := by simpa [State.readCountsForP, Views.fresh] using hr
  subst hr
  change subW s.cfg 0 0 < c
  rw [subW_self]
  exact Nat.pos_of_ne_zero hc

/-- What `WR2` does to what port C sees: the data grows. -/
theorem dataForC_afterWR2 (hinv : s.Inv) (hroom : s.occupied < s.capacity) (h : s.dataForC) : s.afterWR2.dataForC := by
  intro w hw
  obtain ⟨l, hl, hold⟩ := afterWR2_writeCountsForC (s := s)
  rw [hl] at hw
  rcases List.mem_append.mp hw with hw | hw
  · refine h w ?_
    rcases hold with rfl | rfl
    · exact List.mem_append_left _ hw
    · exact hw
  · rw [List.mem_singleton.mp hw]
    have hocc : s.afterWR2.occupied = s.occupied + 1 := afterWR2_occupied hinv.capacity_lt hroom
    change 0 < s.afterWR2.occupied
    exact hocc ▸ Nat.succ_pos _

/-- What `RD2` does to what port P sees: the room grows. -/
theorem roomForP_afterRD2 (hdata : 0 < s.occupied) (h : s.roomForP) : s.afterRD2.roomForP := by
  intro r hr
  obtain ⟨l, hl, hold⟩ := afterRD2_readCountsForP (s := s)
  rw [hl] at hr
  rcases List.mem_append.mp hr with hr | hr
  · refine h r ?_
    rcases hold with rfl | rfl
    · exact List.mem_append_left _ hr
    · exact hr
  · rw [List.mem_singleton.mp hr]
    have hocc : s.afterRD2.occupied = s.occupied - 1 := afterRD2_occupied hdata
    change s.afterRD2.occupied < s.capacity
    exact hocc ▸ Nat.lt_of_le_of_lt (Nat.sub_le _ _) (occupied_lt_of_room h)

/-- A snapshot on port P that shows room leaves it only values that show room: the later ones show an emptier queue. -/
theorem State.ViewsSafe.roomForP_of_given (h : s.ViewsSafe) (hinv : s.Inv) (hport : s.port = .producer)
    (hroom : s.givenOccupied < s.given.capacity) : s.observe.roomForP := by
  obtain ⟨x, hgiven, hhead⟩ := producer_snapshot hport hinv.views_sc
  intro r hr
  have hsub := (observe_readCountsForP s).sublist.map (occupiedOf s.cfg s.writeCount)
  have hhead' : s.observe.readCountsForP.head? = some x := by simpa [State.readCountsForP] using hhead
  have hle : occupiedOf s.cfg s.writeCount r ≤ occupiedOf s.cfg s.writeCount x :=
    rel_of_head (r := (· ≥ ·)) (fun _ => Nat.le_refl _) (h.seenByP.sublist hsub) (by rw [List.head?_map, hhead']; rfl)
      (List.mem_map_of_mem hr)
  rw [State.givenOccupied, hgiven] at hroom
  simpa using Nat.lt_of_le_of_lt hle hroom

/-- A snapshot on port C that shows data leaves it only values that show data: the later ones show a fuller queue. -/
theorem State.ViewsSafe.dataForC_of_given (h : s.ViewsSafe) (hinv : s.Inv) (hport : s.port = .consumer)
    (hdata : s.givenOccupied ≠ 0) : s.observe.dataForC := by
  obtain ⟨x, hgiven, hhead⟩ := consumer_snapshot hport hinv.views_sc
  intro w hw
  have hsub := (observe_writeCountsForC s).sublist.map (occupiedOf s.cfg · s.readCount)
  have hhead' : s.observe.writeCountsForC.head? = some x := by simpa [State.writeCountsForC] using hhead
  have hle : occupiedOf s.cfg x s.readCount ≤ occupiedOf s.cfg w s.readCount :=
    rel_of_head (r := (· ≤ ·)) (fun _ => Nat.le_refl _) (h.seenByC.sublist hsub) (by rw [List.head?_map, hhead']; rfl)
      (List.mem_map_of_mem hw)
  rw [State.givenOccupied, hgiven] at hdata
  simpa using Nat.lt_of_lt_of_le (Nat.pos_of_ne_zero hdata) hle

/-! ### The updates -/

theorem State.ViewsSafe.withInputs (h : s.ViewsSafe) (es : List Event) (p : Port) (rs : PerPort (List Request))
    (cs : PerPort CheckAge) : State.ViewsSafe { s with events := es, port := p, reqs := rs, checks := cs } :=
  { h with }

theorem State.ViewsSafe.respond (h : s.ViewsSafe) (e : Err) (v : Nat) : (s.respond e v).ViewsSafe := { h with }

theorem State.ViewsSafe.raise (h : s.ViewsSafe) (e : Err) : (s.raise e).ViewsSafe := h.respond e 0

theorem State.ViewsSafe.observe (h : s.ViewsSafe) : s.observe.ViewsSafe where
  seenByP := by
    simpa using h.seenByP.sublist ((observe_readCountsForP s).sublist.map (occupiedOf s.cfg s.writeCount))
  seenByP_le r hr := by simpa using h.seenByP_le r ((observe_readCountsForP s).subset hr)
  seenByC := by
    simpa using h.seenByC.sublist ((observe_writeCountsForC s).sublist.map (occupiedOf s.cfg · s.readCount))
  seenByX e he := by
    obtain ⟨-, -, hx⟩ := observe_views_suffix s
    simpa using h.seenByX e (hx.subset he)
  write_room hp := roomForP_observe (h.write_room (by simpa using hp))
  read_data hc := dataForC_observe (h.read_data (by simpa using hc))

theorem cleared_viewsSafe (c : Nat) (hp : s.inFlight .producer = false) (hq : s.inFlight .consumer = false) :
    (s.cleared c).ViewsSafe :=
  .of_empty rfl rfl rfl rfl rfl hp hq

theorem applyReset_viewsSafe (s : State) : s.applyReset.ViewsSafe := .of_empty rfl rfl rfl rfl rfl (by simp) (by simp)

theorem State.ViewsSafe.passedWR0 (h : s.ViewsSafe) (v : Byte) (hroom : s.roomForP) : (s.passedWR0 v).ViewsSafe where
  __ := h
  write_room _ := hroom

theorem State.ViewsSafe.afterWR1 (h : s.ViewsSafe) (v : Byte) (hroom : s.roomForP) : (s.afterWR1 v).ViewsSafe where
  __ := h
  write_room _ := hroom

/-- The instants port X may be given after `WR2`: those before it and, under STALE, the one before it. -/
theorem mem_xInstants_afterWR2 {e : Instant} (he : e ∈ s.afterWR2.views.xInstants) : e ∈ s.views.xInstants ∨ e = s.now := by
  simp only [State.afterWR2_views, State.viewsAfterCountedWrite] at he
  split at he
  · exact .inl he
  · simpa using he

/-- The instants port X may be given after `RD2`: those before it and, under STALE, the one before it. -/
theorem mem_xInstants_afterRD2 {e : Instant} (he : e ∈ s.afterRD2.views.xInstants) : e ∈ s.views.xInstants ∨ e = s.now := by
  simp only [State.afterRD2_views, State.viewsAfterCountedRead] at he
  split at he
  · exact .inl he
  · simpa using he

/-- Counting a `WRITE` raises by one every occupancy that port P may see, as each one showed room. -/
theorem State.ViewsSafe.afterWR2 (h : s.ViewsSafe) (hinv : s.Inv) (hqueue : s.QueueSound) (hp : s.pPhase = .stored) :
    s.afterWR2.ViewsSafe := by
  have hroom : s.roomForP := h.write_room (.inr hp)
  have hocc : s.afterWR2.occupied = s.occupied + 1 := afterWR2_occupied hinv.capacity_lt (occupied_lt_of_room hroom)
  have hinc : ∀ r ∈ s.readCountsForP,
      occupiedOf s.cfg (incW s.cfg s.writeCount) r = occupiedOf s.cfg s.writeCount r + 1 := fun r hr =>
    subW_inc_left s.cfg (Nat.lt_of_le_of_lt (hroom r hr) hinv.capacity_lt)
  exact {
    seenByP := by
      have hold := h.seenByP
      rw [afterWR2_readCountsForP]
      rw [List.pairwise_map] at hold ⊢
      refine hold.imp_of_mem fun {a b} ha hb hab => ?_
      change occupiedOf s.cfg (incW s.cfg s.writeCount) b ≤ occupiedOf s.cfg (incW s.cfg s.writeCount) a
      rw [hinc a ha, hinc b hb]
      exact Nat.succ_le_succ hab
    seenByP_le := fun r hr => by
      rw [afterWR2_readCountsForP] at hr
      change occupiedOf s.cfg (incW s.cfg s.writeCount) r ≤ s.capacity
      rw [hinc r hr]
      exact hroom r hr
    seenByC := by
      obtain ⟨l, hl, hold⟩ := afterWR2_writeCountsForC (s := s)
      have hsub : l.Sublist s.writeCountsForC := by
        rcases hold with rfl | rfl
        · exact List.sublist_append_left _ _
        · exact List.Sublist.refl _
      rw [hl, List.map_append]
      refine pairwise_concat (h.seenByC.sublist (hsub.map _)) fun a ha => ?_
      obtain ⟨w, hw, rfl⟩ := List.mem_map.mp ha
      change _ ≤ s.afterWR2.occupied
      exact hocc ▸ Nat.le_succ_of_le (h.seenByC_le (hsub.subset hw))
    seenByX := fun e he => by
      rcases mem_xInstants_afterWR2 he with hold | rfl
      · exact h.seenByX e hold
      · exact ⟨rfl, hqueue.occupied_le⟩
    write_room := by simp [Inv_pChecked_false hinv (by simp [hp])]
    read_data := fun hc => dataForC_afterWR2 hinv (occupied_lt_of_room hroom) (h.read_data hc) }

theorem State.ViewsSafe.afterWR3 (h : s.ViewsSafe) (hinv : s.Inv) (hp : s.pPhase = .counted) : s.afterWR3.ViewsSafe where
  __ := h
  write_room := by simp [Inv_pChecked_false hinv (by simp [hp])]

theorem State.ViewsSafe.passedRD0 (h : s.ViewsSafe) (hdata : s.dataForC) : s.passedRD0.ViewsSafe where
  __ := h
  read_data _ := hdata

theorem State.ViewsSafe.afterRD1 (h : s.ViewsSafe) (hdata : s.dataForC) : s.afterRD1.ViewsSafe where
  __ := h
  read_data _ := hdata

/-- Counting a `READ` lowers by one every occupancy that port C may see, as each one showed data. -/
theorem State.ViewsSafe.afterRD2 (h : s.ViewsSafe) (hinv : s.Inv) (hqueue : s.QueueSound) (hp : s.cPhase = .loaded) :
    s.afterRD2.ViewsSafe := by
  have hdata : s.dataForC := h.read_data (.inr hp)
  have hocc : s.afterRD2.occupied = s.occupied - 1 := afterRD2_occupied (occupied_pos_of_data hdata)
  have hle : s.afterRD2.occupied ≤ s.occupied := hocc ▸ Nat.sub_le _ _
  have hdec : ∀ w ∈ s.writeCountsForC,
      occupiedOf s.cfg w (incW s.cfg s.readCount) = occupiedOf s.cfg w s.readCount - 1 := fun w hw =>
    subW_inc_right s.cfg (hdata w hw)
  obtain ⟨l, hl, hold⟩ := afterRD2_readCountsForP (s := s)
  have hsub : l.Sublist s.readCountsForP := by
    rcases hold with rfl | rfl
    · exact List.sublist_append_left _ _
    · exact List.Sublist.refl _
  exact {
    seenByP := by
      rw [hl, List.map_append]
      refine pairwise_concat (h.seenByP.sublist (hsub.map _)) fun a ha => ?_
      obtain ⟨r, hr, rfl⟩ := List.mem_map.mp ha
      exact Nat.le_trans hle (h.le_seenByP (hsub.subset hr))
    seenByP_le := fun r hr => by
      rw [hl] at hr
      rcases List.mem_append.mp hr with hr | hr
      · exact h.seenByP_le r (hsub.subset hr)
      · rw [List.mem_singleton.mp hr]
        exact Nat.le_trans hle hqueue.occupied_le
    seenByC := by
      have hold := h.seenByC
      rw [afterRD2_writeCountsForC]
      rw [List.pairwise_map] at hold ⊢
      refine hold.imp_of_mem fun {a b} ha hb hab => ?_
      change occupiedOf s.cfg a (incW s.cfg s.readCount) ≤ occupiedOf s.cfg b (incW s.cfg s.readCount)
      rw [hdec a ha, hdec b hb]
      exact Nat.sub_le_sub_right hab 1
    seenByX := fun e he => by
      rcases mem_xInstants_afterRD2 he with hold | rfl
      · exact h.seenByX e hold
      · exact ⟨rfl, hqueue.occupied_le⟩
    write_room := fun hp => roomForP_afterRD2 (occupied_pos_of_data hdata) (h.write_room hp)
    read_data := by simp [Inv_cChecked_false hinv (by simp [hp])] }

theorem State.ViewsSafe.afterRD3 (h : s.ViewsSafe) (hinv : s.Inv) (hp : s.cPhase = .counted) : s.afterRD3.ViewsSafe where
  __ := h
  read_data := by simp [Inv_cChecked_false hinv (by simp [hp])]

/-! ### Micro-steps -/

/-- On a reference block a data operation starts only if whatever its port may be given licenses it (R104, R208). -/
structure SeesItsLicence (i : Instr) (s : State) : Prop where
  write : ∀ v, i = .write v → s.port = .producer → s.cfg.hardened = false → s.inFlight .producer = false → s.roomForP
  read : i = .read → s.port = .consumer → s.cfg.hardened = false → s.inFlight .consumer = false → s.dataForC

theorem exec_viewsSafe {i : Instr} (hinv : s.Inv) (hqueue : s.QueueSound) (h : s.ViewsSafe) (hsee : SeesItsLicence i s)
    (he : exec i s = .next t) : t.ViewsSafe := by
  cases exec_did he with
  | illegal _ eq | invalid _ _ _ _ _ eq => exact eq ▸ h.raise _
  | answered _ eq => exact eq ▸ h.observe.respond _ _
  | installed _ hp hq _ eq | flushed _ hp hq eq => exact eq ▸ (cleared_viewsSafe _ hp hq).respond _ _
  | full _ _ _ _ _ eq | empty _ _ _ _ _ eq => exact eq ▸ h.observe.raise _
  | wr0 port _ _ _ room _ eq => exact eq ▸ h.observe.passedWR0 _ (h.roomForP_of_given hinv port room)
  | wr1 _ _ _ checked _ eq => exact eq ▸ h.afterWR1 _ (h.write_room (.inl checked))
  | wr1Unchecked port phase hardened _ _ eq =>
    have hidle := not_inFlight_producer.mpr ⟨phase, Inv_pChecked_of_reference hinv hardened⟩
    exact eq ▸ h.afterWR1 _ (hsee.write _ rfl port hardened hidle)
  | wr2 _ phase eq => exact eq ▸ h.afterWR2 hinv hqueue phase
  | wr3 _ phase _ eq => exact eq ▸ (h.afterWR3 hinv phase).respond _ _
  | rd0 port _ _ _ data _ eq => exact eq ▸ h.observe.passedRD0 (h.dataForC_of_given hinv port data)
  | rd1 _ _ _ checked _ eq => exact eq ▸ h.afterRD1 (h.read_data (.inl checked))
  | rd1Unchecked port phase hardened _ _ eq =>
    have hidle := not_inFlight_consumer.mpr ⟨phase, Inv_cChecked_of_reference hinv hardened⟩
    exact eq ▸ h.afterRD1 (hsee.read rfl port hardened hidle)
  | rd2 _ phase eq => exact eq ▸ h.afterRD2 hinv hqueue phase
  | rd3 _ phase _ eq => exact eq ▸ (h.afterRD3 hinv phase).respond _ _

/-- What a port sees it has, it has: the licence of the views is one of the queue. -/
theorem SeesItsLicence.licensed {i : Instr} (hsee : SeesItsLicence i s) (hinv : s.Inv) (h : s.ViewsSafe)
    (hinit : ∀ c, i = .init c → s.port = .controller → s.cfg.hardened = false → c ≤ capMax s.cfg) : Licensed i s where
  write v hi hport hidle hcheck := by
    cases hh : s.cfg.hardened with
    | false => exact occupied_lt_of_room (hsee.write v hi hport hh hidle)
    | true =>
      have hroom := occupied_lt_of_room (h.roomForP_of_given hinv hport (hcheck hh))
      simpa [observe_occupied] using hroom
  read hi hport hidle hcheck := by
    cases hh : s.cfg.hardened with
    | false => exact occupied_pos_of_data (hsee.read hi hport hh hidle)
    | true =>
      have hdata := occupied_pos_of_data (h.dataForC_of_given hinv hport (hcheck hh))
      simpa [observe_occupied] using hdata
  init := hinit

/-- No other port takes the room that port P sees, unless `INIT` leaves no capacity. -/
theorem exec_roomForP {i : Instr} (h : s.ViewsSafe) (hport : s.port ≠ .producer) (hc : t.capacity ≠ 0)
    (hroom : s.roomForP) (he : exec i s = .next t) : t.roomForP := by
  cases exec_did he with
  | illegal _ eq | invalid _ _ _ _ _ eq | rd1 _ _ _ _ _ eq | rd1Unchecked _ _ _ _ _ eq | rd3 _ _ _ eq =>
    exact eq ▸ hroom
  | answered _ eq | empty _ _ _ _ _ eq | rd0 _ _ _ _ _ _ eq => exact eq ▸ roomForP_observe hroom
  | installed _ _ _ _ eq | flushed _ _ _ eq => exact eq ▸ roomForP_cleared (s := s) (by simpa [eq] using hc)
  | rd2 _ phase eq => exact eq ▸ roomForP_afterRD2 (occupied_pos_of_data (h.read_data (.inr phase))) hroom
  | full port | wr0 port | wr1 port | wr1Unchecked port | wr2 port | wr3 port => exact absurd port hport

/-- Port P takes none of the data that port C sees. -/
theorem exec_producer_dataForC {i : Instr} (hinv : s.Inv) (h : s.QueueSound) (hport : s.port = .producer)
    (hdata : s.dataForC) (he : exec i s = .next t) : t.dataForC := by
  cases exec_did he with
  | illegal _ eq | wr1 _ _ _ _ _ eq | wr1Unchecked _ _ _ _ _ eq | wr3 _ _ _ eq => exact eq ▸ hdata
  | answered _ eq | full _ _ _ _ _ eq | wr0 _ _ _ _ _ _ eq => exact eq ▸ dataForC_observe hdata
  | wr2 _ phase eq => exact eq ▸ dataForC_afterWR2 hinv (h.room (.inr phase)) hdata
  | invalid port | installed port | flushed port | empty port | rd0 port | rd1 port | rd1Unchecked port | rd2 port
  | rd3 port => simp [port] at hport

/-- Port X takes none of the data that port C sees, unless it empties the queue. -/
theorem exec_controller_dataForC {i : Instr} (hport : s.port = .controller) (hflush : i ≠ .flush) (hinit : ∀ c, i ≠ .init c)
    (hdata : s.dataForC) (he : exec i s = .next t) : t.dataForC := by
  cases exec_did he with
  | illegal _ eq => exact eq ▸ hdata
  | answered _ eq => exact eq ▸ dataForC_observe hdata
  | invalid | installed => exact absurd rfl (hinit _)
  | flushed => exact absurd rfl hflush
  | full port | wr0 port | wr1 port | wr1Unchecked port | wr2 port | wr3 port | empty port | rd0 port | rd1 port
  | rd1Unchecked port | rd2 port | rd3 port => simp [port] at hport

end Sys2Proof.Machine
end

section
/-! PROOF. Agents that check before each data operation (30_encoding.md R104): the discipline of port P's agent and of port C's
as one notion, what a turn of the port does to it, and what turns of the other ports do. From it runs of `State.Checked`. -/

namespace Sys2Proof.Machine

variable {s t u : State} {p : Port} {es : List Event} {i : Instr} {o : Option Instr} {op query : Instr → Bool} {L M : Prop}

/-! ### The discipline of one agent -/

/-- The agent of port `p` guards each operation `op` by a `query` right before it; between the two, an answer 0 stands for the
licence `L`. -/
def State.Disciplined (s : State) (p : Port) (op query : Instr → Bool) (L : Prop) : Prop :=
  guarded s.cfg op query false (s.reqs.get p) = true ∨
    (guarded s.cfg op query true (s.reqs.get p) = true ∧ s.inFlight p = false ∧ s.checks.get p = .latest ∧
      (s.lastWasZero p = true → L))

theorem producerDisciplined_iff : s.producerDisciplined ↔ s.Disciplined .producer isWrite isIsfull s.roomForP := Iff.rfl

theorem consumerDisciplined_iff : s.consumerDisciplined ↔ s.Disciplined .consumer isRead isIsempty s.dataForC := Iff.rfl

/-- Where the agent's inputs, its last answer and its operation in flight stay, so does the discipline, if the licence does. -/
theorem State.Disciplined.frame (h : s.Disciplined p op query L) (hcfg : t.cfg = s.cfg)
    (hreqs : t.reqs.get p = s.reqs.get p) (hbusy : t.inFlight p = s.inFlight p) (hchecks : t.checks.get p = s.checks.get p)
    (hrsp : t.rsp.get p = s.rsp.get p) (hL : L → M) : t.Disciplined p op query M := by
  have hzero : t.lastWasZero p = s.lastWasZero p := congrArg isOkZero hrsp
  unfold State.Disciplined at h ⊢
  rw [hcfg, hreqs, hbusy, hchecks, hzero]
  exact h.imp_right fun ⟨hg, hf, hc, hl⟩ => ⟨hg, hf, hc, fun hz => hL (hl hz)⟩

/-- An operation that the agent issues is licensed. -/
theorem State.Disciplined.licence (h : s.Disciplined p op query L) (hturn : Turn s p es (some i) u) (hop : op i = true)
    (hidle : s.inFlight p = false) : L := by
  cases hturn with
  | goesOn hin =>
    rw [inFlightInstr_none.mpr hidle] at hin
    cases hin
  | @accepts _ q rest _ req guard word =>
    unfold State.Disciplined at h
    rw [req] at h
    cases q with
    | issue w b =>
      have hnot : op i = false := by
        rcases h with h | ⟨h, -⟩ <;> exact (guarded_issue h word).1
      simp [hop] at hnot
    | issueIfZero w =>
      rcases h with h | ⟨-, -, -, hl⟩
      · cases (guarded_issueIfZero h).2 i word hop
      · exact hl (guard w rfl)

/-- After its own turn the agent is disciplined, if its query has answered as the licence asks. -/
theorem State.Disciplined.after_turn (h : s.Disciplined p op query L) (hturn : Turn s p es (some i) u) (he : exec i u = .next t)
    (hquery : query i = true → isCheckOn p i = true ∧ t.inFlight p = u.inFlight p ∧ (t.lastWasZero p = true → M)) :
    t.Disciplined p op query M := by
  have hcfg : t.cfg = s.cfg := (exec_cfg he).trans hturn.cfg
  have hbusy := hturn.inFlight p
  have hreqs := exec_reqs he
  have hchecks := exec_checks he
  unfold State.Disciplined at h ⊢
  rw [hcfg, hreqs, hchecks]
  cases hturn with
  | goesOn hin =>
    refine .inl (h.resolve_right fun ⟨_, hidle, _⟩ => ?_)
    rw [inFlightInstr_none.mpr hidle] at hin
    cases hin
  | @accepts _ q rest idle req _ word =>
    rw [req] at h
    simp only [State.accepting_reqs, State.withEvents_reqs, State.accepting_checks, State.withEvents_checks,
      PerPort.get_set_same]
    cases q with
    | issue w b =>
      have hrest : guarded s.cfg op query (query i) rest = true := by
        rcases h with h | ⟨h, -⟩ <;> exact (guarded_issue h word).2
      cases hq : query i with
      | false => exact .inl (hq ▸ hrest)
      | true =>
        obtain ⟨hcheck, hsame, hzero⟩ := hquery hq
        exact .inr ⟨hq ▸ hrest, hsame.trans (hbusy.trans idle), by simp [hcheck, CheckAge.next], hzero⟩
    | issueIfZero w => rcases h with h | ⟨h, -⟩ <;> exact .inl (guarded_issueIfZero h).1

/-- A turn in which no command runs leaves the agent disciplined. -/
theorem State.Disciplined.silent_turn (h : s.Disciplined p op query L) {q : Port} (hturn : Turn s q es none t) (hL : L → M) :
    t.Disciplined p op query M := by
  cases hturn with
  | silent => exact h.frame rfl rfl (by simp) rfl rfl hL
  | @drops w rest _ req =>
    by_cases hpq : p = q
    · subst hpq
      unfold State.Disciplined at h ⊢
      rw [req] at h
      simp only [State.dropping_cfg, State.withEvents_cfg, State.dropping_reqs, State.withEvents_reqs, PerPort.get_set_same]
      rcases h with h | ⟨h, -⟩ <;> exact .inl (guarded_issueIfZero h).1
    · exact h.frame rfl (PerPort.get_set_other _ _ hpq) (by simp) rfl rfl hL

/-- A turn of another port leaves the agent disciplined, if it leaves the licence. -/
theorem State.Disciplined.other_turn (h : s.Disciplined p op query L) {q : Port} (hpq : p ≠ q)
    (hturn : Turn s q es (some i) u) (he : exec i u = .next t) (hbusy : t.inFlight p = u.inFlight p) (hL : L → M) :
    t.Disciplined p op query M := by
  have hu : u.Disciplined p op query L := by
    cases hturn with
    | goesOn => exact h.frame rfl rfl (by simp) rfl rfl id
    | accepts =>
      exact h.frame rfl (PerPort.get_set_other _ _ hpq) (by simp) (PerPort.get_set_other _ _ hpq) rfl id
  exact hu.frame (exec_cfg he) (by rw [exec_reqs he]) hbusy (by rw [exec_checks he])
    (exec_rsp_other he (hturn.port_eq ▸ hpq)) hL

/-- Reset leaves no answer, so whoever stands between query and operation will drop the operation. -/
theorem State.Disciplined.after_reset (h : s.Disciplined p op query L) (es : List Event) :
    (s.withEvents es).applyReset.Disciplined p op query M :=
  h.imp_right fun ⟨hg, _, hc, _⟩ => ⟨hg, by simp, hc, fun hz => by cases p <;> cases hz⟩

/-- The agent of a quiescent port is not between a query answered 0 and its operation (R12). -/
theorem State.Disciplined.of_quiescent (h : s.Disciplined p (isDataOpOn p) query L) (hq : s.quiescent p = true) :
    s.Disciplined p (isDataOpOn p) query False := by
  rcases h with h | ⟨hg, hidle, hchecks, -⟩
  · exact .inl h
  · have hmid : s.midSequence p = false := by
      simp only [State.quiescent, Bool.and_eq_true, Bool.not_eq_true'] at hq
      exact hq.2
    unfold State.Disciplined
    match hreq : s.reqs.get p with
    | [] => exact .inl rfl
    | .issue a b :: rest =>
      rw [hreq] at hg
      exact .inl hg
    | .issueIfZero w :: rest =>
      rw [hreq] at hg
      cases hop : commandIs s.cfg (isDataOpOn p) w with
      | true => exact .inr ⟨hg, hidle, hchecks, fun hz => by simp [State.midSequence, hreq, hz, hchecks, hop] at hmid⟩
      | false =>
        simp only [guarded, hop, Bool.not_false, Bool.true_or, Bool.true_and] at hg ⊢
        exact .inl hg

/-! ### The turn of a disciplined agent -/

theorem Turn.inv (h : Turn s p es o u) (hs : s.Inv) : u.Inv := by
  rw [h.eq_inputs]
  exact hs.withInputs _ _ _ _

theorem Turn.queueSound (h : Turn s p es o u) (hs : s.QueueSound) : u.QueueSound := by
  rw [h.eq_inputs]
  exact hs.withInputs _ _ _ _

theorem Turn.viewsSafe (h : Turn s p es o u) (hs : s.ViewsSafe) : u.ViewsSafe := by
  rw [h.eq_inputs]
  exact hs.withInputs _ _ _ _

theorem Turn.roomForP (h : Turn s p es o u) (hs : s.roomForP) : u.roomForP := by
  rw [h.eq_inputs]
  exact hs

theorem Turn.dataForC (h : Turn s p es o u) (hs : s.dataForC) : u.dataForC := by
  rw [h.eq_inputs]
  exact hs

/-- A `WRITE` that a disciplined agent issues sees room. -/
theorem roomForP_of_issue {v : Byte} (hd : s.producerDisciplined)
    (hturn : Turn s .producer es (some (.write v)) u) (hidle : s.inFlight .producer = false) : s.roomForP :=
  (producerDisciplined_iff.mp hd).licence hturn rfl hidle

/-- A `READ` that a disciplined agent issues sees data. -/
theorem dataForC_of_issue (hd : s.consumerDisciplined)
    (hturn : Turn s .consumer es (some .read) u) (hidle : s.inFlight .consumer = false) : s.dataForC :=
  (consumerDisciplined_iff.mp hd).licence hturn rfl hidle

theorem State.Checked.seesItsLicence (h : s.Checked) (hturn : Turn s p es (some i) u) : SeesItsLicence i u where
  write v hi hport hh hidle := by
    subst hi
    obtain rfl : p = .producer := hturn.port_eq.symm.trans hport
    rw [hturn.cfg] at hh
    obtain ⟨hd, -⟩ := h.agents.resolve_left (by simp [hh])
    exact hturn.roomForP (roomForP_of_issue hd hturn (by rwa [← hturn.inFlight]))
  read hi hport hh hidle := by
    subst hi
    obtain rfl : p = .consumer := hturn.port_eq.symm.trans hport
    rw [hturn.cfg] at hh
    obtain ⟨-, hd⟩ := h.agents.resolve_left (by simp [hh])
    exact hturn.dataForC (dataForC_of_issue hd hturn (by rwa [← hturn.inFlight]))

/-- `ISFULL` changes nothing in flight, and its answer 0 stands for room whatever port P is given later (R208). -/
theorem exec_isfull_licence (hinv : s.Inv) (h : s.ViewsSafe) (hport : s.port = .producer) (he : exec .isfull s = .next t) :
    t.inFlight .producer = s.inFlight .producer ∧ (t.lastWasZero .producer = true → t.roomForP) := by
  rw [exec_query rfl] at he
  cases he
  refine ⟨by simp, fun hz => ?_⟩
  rw [lastWasZero_of_boolValue (b := fullOf s.given.capacity s.givenOccupied) (by simp [hport]), Bool.not_eq_true'] at hz
  exact h.roomForP_of_given hinv hport (by simpa [fullOf] using hz)

/-- `ISEMPTY` changes nothing in flight, and its answer 0 stands for data whatever port C is given later (R208). -/
theorem exec_isempty_licence (hinv : s.Inv) (h : s.ViewsSafe) (hport : s.port = .consumer) (he : exec .isempty s = .next t) :
    t.inFlight .consumer = s.inFlight .consumer ∧ (t.lastWasZero .consumer = true → t.dataForC) := by
  rw [exec_query rfl] at he
  cases he
  refine ⟨by simp, fun hz => ?_⟩
  rw [lastWasZero_of_boolValue (b := emptyOf s.givenOccupied) (by simp [hport]), Bool.not_eq_true'] at hz
  exact h.dataForC_of_given hinv hport (by simpa [emptyOf] using hz)

/-! ### The controller's part -/

theorem State.controllerInContract.init {c : Nat} (h : s.controllerInContract) (hev : s.events = .turn .controller :: es)
    (hturn : Turn s .controller es (some (.init c)) u) : s.allows (.init c) :=
  (h es hev).1 c hturn.nextCommand

theorem State.controllerInContract.flush (h : s.controllerInContract) (hev : s.events = .turn .controller :: es)
    (hturn : Turn s .controller es (some .flush) u) : s.allows .flush :=
  (h es hev).2 hturn.nextCommand

/-- Where the controller keeps its part of the contract, it empties the queue with both data ports quiescent only. -/
theorem State.controllerInContract.quiescent (h : s.controllerInContract) (hev : s.events = .turn .controller :: es)
    (hturn : Turn s .controller es (some i) u) (hi : i = .flush ∨ ∃ c, i = .init c) :
    s.quiescent .producer = true ∧ s.quiescent .consumer = true := by
  rcases hi with rfl | ⟨c, rfl⟩
  · exact h.flush hev hturn
  · obtain ⟨hp, hq, -, -⟩ := h.init hev hturn
    exact ⟨hp, hq⟩

/-- On a hardened block, or where the controller keeps its part of the contract, every command of a checked run is licensed. -/
theorem State.Checked.licensed (h : s.Checked) (hctrl : s.cfg.hardened = true ∨ s.controllerInContract)
    (hev : s.events = .turn p :: es) (hturn : Turn s p es (some i) u) : Licensed i u := by
  refine (h.seesItsLicence hturn).licensed (hturn.inv h.inv) (hturn.viewsSafe h.views_safe) ?_
  rintro c rfl hport hh
  obtain rfl : p = .controller := hturn.port_eq.symm.trans hport
  rw [hturn.cfg] at hh ⊢
  obtain ⟨-, -, -, hmax⟩ := (hctrl.resolve_left (by simp [hh])).init hev hturn
  exact hmax

theorem State.controllerInContract.exclusive (h : s.controllerInContract) (hev : s.events = .turn p :: es)
    (hturn : Turn s p es (some i) u) : ExclusiveIfLifecycle i u := by
  intro hi hport
  obtain rfl : p = .controller := hturn.port_eq.symm.trans hport
  obtain ⟨hp, hq⟩ := h.quiescent hev hturn hi
  rw [hturn.inFlight, hturn.inFlight]
  exact ⟨quiescent_inFlight hp, quiescent_inFlight hq⟩

/-- No command of a controller in contract leaves the block without a capacity. -/
theorem exec_capacity_ne_zero (hctrl : s.controllerInContract) (hev : s.events = .turn p :: es)
    (hturn : Turn s p es (some i) u) (he : exec i u = .next t) (hc : s.capacity ≠ 0) : t.capacity ≠ 0 := by
  rcases exec_capacity he with hsame | ⟨c, rfl, hport, -, hnew⟩
  · rw [hsame, hturn.capacity]
    exact hc
  · obtain rfl : p = .controller := hturn.port_eq.symm.trans hport
    obtain ⟨-, -, hpos, hmax⟩ := hctrl.init hev hturn
    rw [hnew, hturn.cfg, capacityOperand_of_le s.cfg hmax]
    omega

/-! ### Steps -/

theorem step_cfg (he : step s = .next t) : t.cfg = s.cfg := by
  rcases step_cases he with ⟨-, rfl⟩ | ⟨es, -, rfl⟩ | ⟨p, es, -, hturn | ⟨i, u, hturn, hx⟩⟩
  · rfl
  · simp
  · exact hturn.cfg
  · exact (exec_cfg hx).trans hturn.cfg

theorem capacity_ne_zero_of_room (h : s.roomForP) : s.capacity ≠ 0 :=
  Nat.ne_zero_of_lt (occupied_lt_of_room h)

/-- A micro-step leaves port P's agent disciplined. -/
theorem exec_producerDisciplined (h : s.Checked) (hd : s.producerDisciplined) (hctrl : s.controllerInContract)
    (hev : s.events = .turn p :: es) (hturn : Turn s p es (some i) u) (he : exec i u = .next t) : t.producerDisciplined := by
  have hviews := hturn.viewsSafe h.views_safe
  rw [producerDisciplined_iff] at hd ⊢
  by_cases hp : p = .producer
  · subst hp
    refine hd.after_turn hturn he fun hquery => ?_
    cases i with
    | isfull => exact ⟨rfl, exec_isfull_licence (hturn.inv h.inv) hviews hturn.port_eq he⟩
    | init | isempty | availdata | availspace | write | read | flush => cases hquery
  · have hport : u.port ≠ .producer := hturn.port_eq.symm ▸ hp
    refine hd.other_turn (Ne.symm hp) hturn he (exec_producer_inFlight hport he) fun hroom => ?_
    exact exec_roomForP hviews hport
      (exec_capacity_ne_zero hctrl hev hturn he (capacity_ne_zero_of_room hroom)) (hturn.roomForP hroom) he

/-- A micro-step leaves port C's agent disciplined: port X empties the queue only while the agent relies on no answer. -/
theorem exec_consumerDisciplined (h : s.Checked) (hd : s.consumerDisciplined) (hctrl : s.controllerInContract)
    (hev : s.events = .turn p :: es) (hturn : Turn s p es (some i) u) (he : exec i u = .next t) : t.consumerDisciplined := by
  rw [consumerDisciplined_iff] at hd ⊢
  have busy (hp : p ≠ .consumer) : t.inFlight .consumer = u.inFlight .consumer :=
    exec_consumer_inFlight (hturn.port_eq.symm ▸ hp) he
  cases p with
  | consumer =>
    refine hd.after_turn hturn he fun hquery => ?_
    cases i with
    | isempty => exact ⟨rfl, exec_isempty_licence (hturn.inv h.inv) (hturn.viewsSafe h.views_safe) hturn.port_eq he⟩
    | init | isfull | availdata | availspace | write | read | flush => cases hquery
  | producer =>
    refine hd.other_turn (by decide) hturn he (busy (by decide)) fun hdata => ?_
    exact exec_producer_dataForC (hturn.inv h.inv) (hturn.queueSound h.queue) hturn.port_eq (hturn.dataForC hdata) he
  | controller =>
    by_cases hi : i = .flush ∨ ∃ c, i = .init c
    · obtain ⟨-, hquiet⟩ := hctrl.quiescent hev hturn hi
      exact (State.Disciplined.of_quiescent hd hquiet).other_turn (by decide) hturn he (busy (by decide)) False.elim
    · refine hd.other_turn (by decide) hturn he (busy (by decide)) fun hdata => ?_
      exact exec_controller_dataForC hturn.port_eq (fun hf => hi (.inl hf)) (fun c hf => hi (.inr ⟨c, hf⟩))
        (hturn.dataForC hdata) he

theorem step_disciplined (h : s.Checked) (hd : s.producerDisciplined ∧ s.consumerDisciplined)
    (hctrl : s.controllerInContract) (he : step s = .next t) : t.producerDisciplined ∧ t.consumerDisciplined := by
  obtain ⟨hp, hq⟩ := hd
  rcases step_cases he with ⟨-, rfl⟩ | ⟨es, -, rfl⟩ | ⟨p, es, hev, hturn | ⟨i, u, hturn, hx⟩⟩
  · exact ⟨hp, hq⟩
  · exact ⟨(producerDisciplined_iff.mp hp).after_reset es, (consumerDisciplined_iff.mp hq).after_reset es⟩
  · exact ⟨(producerDisciplined_iff.mp hp).silent_turn hturn hturn.roomForP,
      (consumerDisciplined_iff.mp hq).silent_turn hturn hturn.dataForC⟩
  · exact ⟨exec_producerDisciplined h hp hctrl hev hturn hx, exec_consumerDisciplined h hq hctrl hev hturn hx⟩

theorem step_viewsSafe (h : s.Checked) (he : step s = .next t) : t.ViewsSafe := by
  rcases step_cases he with ⟨-, rfl⟩ | ⟨es, -, rfl⟩ | ⟨p, es, -, hturn | ⟨i, u, hturn, hx⟩⟩
  · exact h.views_safe
  · exact applyReset_viewsSafe _
  · exact hturn.viewsSafe h.views_safe
  · exact exec_viewsSafe (hturn.inv h.inv) (hturn.queueSound h.queue) (hturn.viewsSafe h.views_safe)
      (h.seesItsLicence hturn) hx

/-- A checked run stays one, on a hardened block whatever the agents do, else while the controller keeps its part. -/
theorem step_checked (h : s.Checked) (hctrl : s.cfg.hardened = true ∨ s.controllerInContract) (he : step s = .next t) :
    t.Checked where
  toSound := step_sound_of_licensed h.toSound he fun _ _ _ _ hev hturn => h.licensed hctrl hev hturn
  views_safe := step_viewsSafe h he
  agents := by
    rw [step_cfg he]
    cases hh : s.cfg.hardened with
    | true => exact .inl rfl
    | false =>
      exact .inr (step_disciplined h (h.agents.resolve_left (by simp [hh])) (hctrl.resolve_left (by simp [hh])) he)

/-- Settles O51: every field of `State.Checked` is kept, and a sound queue is not overrun. -/
theorem hardenedStepsStayInContract : Obligations.HardenedStepsStayInContract := by
  intro s t h hh he
  have ht := step_checked h (.inl hh) he
  exact ⟨ht, ht.queue.occupied_le⟩

/-- Settles O52: soundness gives each step a meaning and is kept, by `run_sound` along the run and by `step_checked`. -/
theorem runsInContractMeetNoFault : Obligations.RunsInContractMeetNoFault := by
  refine ⟨fun n s hs hrun => ?_, fun s h hctrl => ?_⟩
  · obtain ⟨t, hrun, ht⟩ := run_sound hs hrun
    exact ⟨t, hrun, ht, ht.queue.occupied_le, ht.inv.indices_lt⟩
  · obtain ⟨t, he⟩ := step_answers h.toSound fun _ _ _ _ hev hturn =>
      ⟨h.licensed (.inr hctrl) hev hturn, hctrl.exclusive hev hturn⟩
    exact ⟨t, he, step_checked h (.inr hctrl) he⟩

/-! ### Other statements about checked runs -/

/-- A command that a port will run next is one its turn leaves to run. -/
theorem State.Sound.turn_of_nextCommand (h : s.Sound) (hev : s.events = .turn p :: es) (hi : s.nextCommand p = some i) :
    ∃ u, Turn s p es (some i) u := by
  rcases h.step_turn hev with ⟨j, u, hturn, -⟩ | ⟨u, hturn, -⟩
  · rw [hturn.nextCommand] at hi
    cases hi
    exact ⟨u, hturn⟩
  · rw [hturn.nextCommand] at hi
    cases hi

/-- Settles O53: a guarded operation is issued with its licence, which is stronger than what R12 asks. -/
theorem guardedStepsAreInContract : Obligations.GuardedStepsAreInContract := by
  intro s h hp hq hctrl p es hev hidle i hi hl
  obtain ⟨u, hturn⟩ := h.turn_of_nextCommand hev hi
  cases i with
  | write v =>
    obtain rfl := legalOn_write.mp hl
    exact fullFlag_eq_false.mpr (occupied_lt_of_room (roomForP_of_issue hp hturn hidle))
  | read =>
    obtain rfl := legalOn_read.mp hl
    exact emptyFlag_eq_false.mpr (occupied_pos_of_data (dataForC_of_issue hq hturn hidle))
  | init c =>
    obtain rfl := legalOn_init.mp hl
    exact hctrl.init hev hturn
  | flush =>
    obtain rfl := legalOn_flush.mp hl
    exact hctrl.flush hev hturn
  | isempty | isfull | availdata | availspace => trivial

/-- After reset the queue is empty, nothing is late, and the agents have nothing to present. -/
theorem resetWith_checked {cfg : Config} (h : cfg.wf = true) : (State.resetWith cfg).Checked where
  inv := resetWith_inv h
  queue := .fresh rfl rfl rfl rfl rfl rfl
  capacity_le_depth := Nat.zero_le _
  requests_fit p q hq := by cases p <;> cases hq
  views_safe := .of_empty rfl rfl rfl rfl rfl rfl rfl
  agents := .inr ⟨.inl rfl, .inl rfl⟩

/-- Settles O54: the reference parameters are admitted ones. -/
theorem resetIsInContract : Obligations.ResetIsInContract := ⟨resetWith_checked rfl, fun _ => resetWith_checked⟩

/-- A fuller queue has less space. -/
theorem spaceOf_le {cfg : Config} {c m n : Nat} (hc : c < cfg.range) (hmn : m ≤ n) (hn : n ≤ c) :
    spaceOf cfg c n ≤ spaceOf cfg c m := by
  rw [spaceOf, spaceOf, subW_of_le hc hn, subW_of_le hc (Nat.le_trans hmn hn)]
  omega

/-- Settles O57: what port P is given shows the queue no emptier, what port C is given shows it no fuller than it is, and what
port X is given shows an occupancy that the queue has had. -/
theorem lateViewsOnlyRefuse : Obligations.LateViewsOnlyRefuse := by
  intro s h
  refine ⟨fun hport => ⟨fun hroom => ?_, ?_⟩, fun hport => ?_, fun hport => ?_⟩
  · simpa [observe_occupied] using occupied_lt_of_room (h.views_safe.roomForP_of_given h.inv hport hroom)
  · obtain ⟨r, hr, hgiven⟩ := given_producer hport
    rw [hgiven]
    exact spaceOf_le h.inv.capacity_lt (h.views_safe.le_seenByP hr) (h.views_safe.seenByP_le r hr)
  · obtain ⟨w, hw, hgiven⟩ := given_consumer hport
    rw [State.givenOccupied, hgiven]
    exact h.views_safe.seenByC_le hw
  · rcases List.mem_append.mp (given_controller hport) with hold | hnow
    · exact (h.views_safe.seenByX _ hold).2
    · rw [State.givenOccupied, List.mem_singleton.mp hnow]
      exact h.queue.occupied_le

end Sys2Proof.Machine
end

section
/-! PROOF. Commits (43_arithmetic_and_properties.md R207): what each port's turn leaves alone (10_state.md R27), and what a step
that commits does to the counters and the slots, said once. -/

namespace Sys2Proof.Machine

variable {s t u : State} {p : Port} {es : List Event} {i : Instr} {o : Option Instr}

/-! ### What a micro-step of a port leaves alone -/

theorem exec_onProducer_frame (hport : s.port = .producer) (he : exec i s = .next t) :
    t.readIndex = s.readIndex ∧ t.readCount = s.readCount ∧ t.capacity = s.capacity := by
  cases exec_did he with
  | illegal | answered | full | wr0 | wr1 | wr1Unchecked | wr2 | wr3 => subst t; simp
  | invalid port | installed port | flushed port | empty port | rd0 port | rd1 port | rd1Unchecked port | rd2 port
  | rd3 port => simp [port] at hport

theorem exec_onConsumer_frame (hport : s.port = .consumer) (he : exec i s = .next t) :
    t.writeIndex = s.writeIndex ∧ t.writeCount = s.writeCount ∧ t.capacity = s.capacity := by
  cases exec_did he with
  | illegal | answered | empty | rd0 | rd1 | rd1Unchecked | rd2 | rd3 => subst t; simp
  | invalid port | installed port | flushed port | full port | wr0 port | wr1 port | wr1Unchecked port | wr2 port
  | wr3 port => simp [port] at hport

/-- On port X only `INIT` and `FLUSH` change one of the six items. -/
theorem exec_onController_frame (hport : s.port = .controller) (hinit : ∀ c, i ≠ .init c) (hflush : i ≠ .flush)
    (he : exec i s = .next t) :
    t.capacity = s.capacity ∧ t.writeIndex = s.writeIndex ∧ t.readIndex = s.readIndex ∧
      t.writeCount = s.writeCount ∧ t.readCount = s.readCount := by
  cases exec_did he with
  | illegal | answered => subst t; simp
  | invalid | installed => exact absurd rfl (hinit _)
  | flushed => exact absurd rfl hflush
  | full port | wr0 port | wr1 port | wr1Unchecked port | wr2 port | wr3 port | empty port | rd0 port | rd1 port
  | rd1Unchecked port | rd2 port | rd3 port => simp [port] at hport

/-- What a turn does beyond the inputs, a micro-step of the port's next command does. -/
theorem step_of_turn (hev : s.events = .turn p :: es) (he : step s = .next t) :
    Turn s p es none t ∨ ∃ i u, Turn s p es (some i) u ∧ exec i u = .next t := by
  rcases step_cases he with ⟨hnil, -⟩ | ⟨es', hreset, -⟩ | ⟨q, es', hturn, h⟩
  · simp [hev] at hnil
  · simp [hev] at hreset
  · rw [hev] at hturn
    cases hturn
    exact h

/-- Settles O38: of the micro-steps only `INIT` on port X installs a capacity, and none changes a parameter. -/
theorem onlyInitAndResetChangeTheCapacity : Obligations.OnlyInitAndResetChangeTheCapacity := by
  intro s t he
  refine ⟨step_cfg he, fun hne => ?_⟩
  rcases step_cases he with ⟨-, rfl⟩ | ⟨es, hev, rfl⟩ | ⟨p, es, hev, hturn | ⟨i, u, hturn, hx⟩⟩
  · exact absurd rfl hne
  · exact .inl ⟨es, hev, rfl⟩
  · exact absurd hturn.capacity hne
  · rcases exec_capacity hx with hsame | ⟨c, rfl, hport, -, hnew⟩
    · exact absurd (hsame.trans hturn.capacity) hne
    · obtain rfl : p = .controller := hturn.port_eq.symm.trans hport
      exact .inr ⟨es, c, hev, hturn.nextCommand, by rw [hnew, hturn.cfg]; rfl⟩

/-- Settles O39: the frames of the three ports; port X's holds unless its next command is `INIT` or `FLUSH`. -/
theorem portsWriteOnlyWhatTheyOwn : Obligations.PortsWriteOnlyWhatTheyOwn := by
  intro s t es he
  refine ⟨fun hev => ?_, fun hev => ?_, fun hev => ?_⟩
  · rcases step_of_turn hev he with hturn | ⟨i, u, hturn, hx⟩
    · rw [hturn.eq_inputs]; simp
    · obtain ⟨hindex, hcount, hcapacity⟩ := exec_onProducer_frame hturn.port_eq hx
      obtain ⟨hphase, hlatch, hchecked⟩ := exec_not_consumer (by rw [hturn.port_eq]; decide) hx
      rw [hindex, hcount, hcapacity, hphase, hlatch, hchecked, hturn.eq_inputs]; simp
  · rcases step_of_turn hev he with hturn | ⟨i, u, hturn, hx⟩
    · rw [hturn.eq_inputs]; simp
    · obtain ⟨hindex, hcount, hcapacity⟩ := exec_onConsumer_frame hturn.port_eq hx
      obtain ⟨hstorage, hphase, hlatch, hchecked⟩ := exec_not_producer (by rw [hturn.port_eq]; decide) hx
      rw [hindex, hcount, hcapacity, hstorage, hphase, hlatch, hchecked, hturn.eq_inputs]; simp
  · rcases step_of_turn hev he with hturn | ⟨i, u, hturn, hx⟩
    · rw [hturn.eq_inputs]; simp
    · obtain ⟨hstorage, hp, hpl, hpc⟩ := exec_not_producer (by rw [hturn.port_eq]; decide) hx
      obtain ⟨hc, hcl, hcc⟩ := exec_not_consumer (by rw [hturn.port_eq]; decide) hx
      have hinputs := hturn.eq_inputs
      rw [hstorage, hp, hpl, hpc, hc, hcl, hcc, hturn.nextCommand]
      refine ⟨by rw [hinputs], by rw [hinputs], by rw [hinputs], by rw [hinputs], by rw [hinputs], by rw [hinputs],
        by rw [hinputs], fun hinit hflush => ?_⟩
      obtain ⟨hcap, hwi, hri, hwc, hrc⟩ :=
        exec_onController_frame hturn.port_eq (fun c h => hinit c (congrArg some h)) (fun h => hflush (congrArg some h)) hx
      rw [hcap, hwi, hri, hwc, hrc, hinputs]; simp

/-! ### What a commit does -/

/-- How a commit moves the counters and the slots, and which bytes it may change. -/
inductive Moves (s t : State) : Commit → Prop
  | nothing (capacity : t.capacity = s.capacity) (writes : t.writeCount = s.writeCount) (reads : t.readCount = s.readCount)
      (writeSlot : t.nextWriteSlot = s.nextWriteSlot) (readSlot : t.nextReadSlot = s.nextReadSlot)
      (bytes : t.storage = s.storage ∨ t.pPhase = .stored ∧ ∃ v, t.storage = s.storedAt s.nextWriteSlot v) :
      Moves s t .nothing
  | push (stored : s.pPhase = .stored) (capacity : t.capacity = s.capacity)
      (writes : t.writeCount = incW s.cfg s.writeCount) (reads : t.readCount = s.readCount)
      (writeSlot : t.nextWriteSlot = advIndex s.capacity s.nextWriteSlot) (readSlot : t.nextReadSlot = s.nextReadSlot)
      (bytes : t.storage = s.storage) : Moves s t (.push s.pLatch)
  | pop (loaded : s.cPhase = .loaded) (capacity : t.capacity = s.capacity) (writes : t.writeCount = s.writeCount)
      (reads : t.readCount = incW s.cfg s.readCount) (writeSlot : t.nextWriteSlot = s.nextWriteSlot)
      (readSlot : t.nextReadSlot = advIndex s.capacity s.nextReadSlot) (bytes : t.storage = s.storage) :
      Moves s t (.pop s.cLatch)
  | clear (writes : t.writeCount = 0) (reads : t.readCount = 0) (writeSlot : t.nextWriteSlot = 0)
      (readSlot : t.nextReadSlot = 0) : Moves s t .clear

theorem Moves.refl (s : State) : Moves s s .nothing := .nothing rfl rfl rfl rfl rfl (.inl rfl)

/-- The inputs that a turn moves play no part in a commit. -/
theorem Turn.moves {c : Commit} (h : Turn s p es o u) (hm : Moves u t c) : Moves s t c := by
  rw [h.eq_inputs] at hm
  cases hm <;> constructor <;> assumption

@[simp] theorem observe_nextWriteSlot (s : State) : s.observe.nextWriteSlot = s.nextWriteSlot := by
  simp [State.nextWriteSlot]

@[simp] theorem observe_nextReadSlot (s : State) : s.observe.nextReadSlot = s.nextReadSlot := by
  simp [State.nextReadSlot]

@[simp] theorem respond_nextWriteSlot (s : State) (e : Err) (v : Nat) : (s.respond e v).nextWriteSlot = s.nextWriteSlot := rfl

@[simp] theorem respond_nextReadSlot (s : State) (e : Err) (v : Nat) : (s.respond e v).nextReadSlot = s.nextReadSlot := rfl

theorem moves_respond (e : Err) (v : Nat) : Moves s (s.respond e v) .nothing := .nothing rfl rfl rfl rfl rfl (.inl rfl)

theorem moves_observe_respond (e : Err) (v : Nat) : Moves s (s.observe.respond e v) .nothing :=
  .nothing (by simp) (by simp) (by simp) (by simp) (by simp) (.inl (by simp))

theorem moves_afterWR1 (v : Byte) (hp : s.pPhase = .idle) : Moves s (s.afterWR1 v) .nothing := by
  have hslot : s.nextWriteSlot = s.writeIndex := nextWriteSlot_of_ne_counted (by simp [hp])
  exact .nothing rfl rfl rfl ((nextWriteSlot_of_ne_counted (by simp)).trans hslot.symm) rfl
    (.inr ⟨rfl, v, by rw [hslot, State.afterWR1_storage]⟩)

theorem moves_afterWR2 (hp : s.pPhase = .stored) : Moves s s.afterWR2 (.push s.pLatch) :=
  .push hp rfl rfl rfl
    ((nextWriteSlot_of_counted (s := s.afterWR2) rfl).trans (by rw [nextWriteSlot_of_ne_counted (by simp [hp])]; rfl)) rfl rfl

theorem moves_afterWR3 (hp : s.pPhase = .counted) : Moves s s.afterWR3 .nothing :=
  .nothing rfl rfl rfl
    ((nextWriteSlot_of_ne_counted (s := s.afterWR3) (by simp)).trans (nextWriteSlot_of_counted hp).symm) rfl (.inl rfl)

theorem moves_afterRD1 (hp : s.cPhase = .idle) : Moves s s.afterRD1 .nothing :=
  .nothing rfl rfl rfl rfl
    ((nextReadSlot_of_ne_counted (s := s.afterRD1) (by simp)).trans (nextReadSlot_of_ne_counted (s := s) (by simp [hp])).symm)
    (.inl rfl)

theorem moves_afterRD2 (hp : s.cPhase = .loaded) : Moves s s.afterRD2 (.pop s.cLatch) :=
  .pop hp rfl rfl rfl rfl
    ((nextReadSlot_of_counted (s := s.afterRD2) rfl).trans (by rw [nextReadSlot_of_ne_counted (by simp [hp])]; rfl)) rfl

theorem moves_afterRD3 (hp : s.cPhase = .counted) : Moves s s.afterRD3 .nothing :=
  .nothing rfl rfl rfl rfl
    ((nextReadSlot_of_ne_counted (s := s.afterRD3) (by simp)).trans (nextReadSlot_of_counted hp).symm) (.inl rfl)

theorem moves_cleared {c : Nat} (hp : s.inFlight .producer = false) (hq : s.inFlight .consumer = false) :
    Moves s (s.cleared c) .clear := by
  obtain ⟨hphase, -⟩ := not_inFlight_producer.mp hp
  obtain ⟨hphase', -⟩ := not_inFlight_consumer.mp hq
  exact .clear rfl rfl (nextWriteSlot_of_ne_counted (by simp [hphase])) (nextReadSlot_of_ne_counted (by simp [hphase']))

/-- A response changes no counter, slot or byte, so it may follow any commit. -/
theorem Moves.respond {c : Commit} (h : Moves s t c) (e : Err) (v : Nat) : Moves s (t.respond e v) c := by
  cases h <;> constructor <;> assumption

/-- On port P a micro-step other than `WR2` commits nothing. -/
theorem exec_producer_moves (hport : s.port = .producer) (hp : s.pPhase ≠ .stored) (he : exec i s = .next t) :
    Moves s t .nothing := by
  cases exec_did he with
  | illegal _ eq => exact eq ▸ moves_respond _ _
  | answered _ eq | full _ _ _ _ _ eq => exact eq ▸ moves_observe_respond _ _
  | wr0 _ phase _ _ _ _ eq =>
    subst eq
    exact .nothing (by simp) (by simp) (by simp) (by simp [State.nextWriteSlot]) (by simp [State.nextReadSlot])
      (.inl (by simp))
  | wr1 _ phase _ _ _ eq | wr1Unchecked _ phase _ _ _ eq => exact eq ▸ moves_afterWR1 _ phase
  | wr2 _ phase => exact absurd phase hp
  | wr3 _ phase _ eq => exact eq ▸ (moves_afterWR3 phase).respond _ _
  | invalid port | installed port | flushed port | empty port | rd0 port | rd1 port | rd1Unchecked port | rd2 port
  | rd3 port => simp [port] at hport

/-- On port C a micro-step other than `RD2` commits nothing. -/
theorem exec_consumer_moves (hport : s.port = .consumer) (hp : s.cPhase ≠ .loaded) (he : exec i s = .next t) :
    Moves s t .nothing := by
  cases exec_did he with
  | illegal _ eq => exact eq ▸ moves_respond _ _
  | answered _ eq | empty _ _ _ _ _ eq => exact eq ▸ moves_observe_respond _ _
  | rd0 _ phase _ _ _ _ eq =>
    subst eq
    exact .nothing (by simp) (by simp) (by simp) (by simp [State.nextWriteSlot]) (by simp [State.nextReadSlot])
      (.inl (by simp))
  | rd1 _ phase _ _ _ eq | rd1Unchecked _ phase _ _ _ eq => exact eq ▸ moves_afterRD1 phase
  | rd2 _ phase => exact absurd phase hp
  | rd3 _ phase _ eq => exact eq ▸ (moves_afterRD3 phase).respond _ _
  | invalid port | installed port | flushed port | full port | wr0 port | wr1 port | wr1Unchecked port | wr2 port
  | wr3 port => simp [port] at hport

/-- On port X `INIT` and `FLUSH` empty the queue, unless `INIT` is turned away; nothing else commits. -/
theorem exec_controller_moves (hport : s.port = .controller) (he : exec i s = .next t) :
    Moves s t (lifecycleCommit s.cfg (some i)) := by
  cases exec_did he with
  | illegal legal eq =>
    subst eq
    rcases legalOn_eq_false_iff.mp legal with ⟨-, hne⟩ | ⟨⟨v, rfl⟩, -⟩ | ⟨rfl, -⟩
    · exact absurd hport hne
    · exact moves_respond _ _
    · exact moves_respond _ _
  | answered value eq =>
    subst eq
    cases i with
    | isempty | isfull | availdata | availspace => exact moves_observe_respond _ _
    | init | write | read | flush => cases value
  | invalid _ _ _ hardened capacity eq =>
    simp only [lifecycleCommit, hardened, capacity, Bool.and_self, if_true]
    exact eq ▸ moves_respond _ _
  | @installed c _ hp hq capacity eq =>
    have hnot : (s.cfg.hardened && invalidCapacity s.cfg c) = false := by
      cases hh : s.cfg.hardened
      · rfl
      · exact capacity hh
    simp only [lifecycleCommit, hnot, Bool.false_eq_true, if_false]
    exact eq ▸ (moves_cleared hp hq).respond _ _
  | flushed _ hp hq eq => exact eq ▸ (moves_cleared hp hq).respond _ _
  | full port | wr0 port | wr1 port | wr1Unchecked port | wr2 port | wr3 port | empty port | rd0 port | rd1 port
  | rd1Unchecked port | rd2 port | rd3 port => simp [port] at hport

/-! ### The commit of a step -/

theorem commit_producer (hev : s.events = .turn .producer :: es) :
    s.commit = if s.pPhase = .stored then .push s.pLatch else .nothing := by
  cases hp : s.pPhase <;> simp [State.commit, hev, hp]

theorem commit_consumer (hev : s.events = .turn .consumer :: es) :
    s.commit = if s.cPhase = .loaded then .pop s.cLatch else .nothing := by
  cases hp : s.cPhase <;> simp [State.commit, hev, hp]

theorem commit_controller (hev : s.events = .turn .controller :: es) :
    s.commit = lifecycleCommit s.cfg (s.nextCommand .controller) := by
  simp [State.commit, hev]

/-- A turn in which no command runs is one of an idle port. -/
theorem Turn.idle_of_none (h : Turn s p es none u) : s.inFlight p = false := by
  cases h with
  | silent idle => exact idle
  | drops idle => exact idle

theorem inFlightInstr_producer_of_busy (h : s.inFlight .producer = true) :
    s.inFlightInstr .producer = some (.write s.pLatch) := by
  simp [State.inFlightInstr, h]

theorem inFlightInstr_consumer_of_busy (h : s.inFlight .consumer = true) : s.inFlightInstr .consumer = some .read := by
  simp [State.inFlightInstr, h]

/-- A port inside an operation goes on with it. -/
theorem Turn.eq_inFlightInstr (h : Turn s p es o u) (hbusy : s.inFlight p = true) : s.inFlightInstr p = o := by
  cases o with
  | none => simp [h.idle_of_none] at hbusy
  | some i => exact h.runs.resolve_right (by simp [hbusy])

/-- What a step does to the counters and the slots is what its commit says. -/
theorem step_moves (he : step s = .next t) : Moves s t s.commit := by
  rcases step_cases he with ⟨hev, rfl⟩ | ⟨es, hev, rfl⟩ | ⟨p, es, hev, h⟩
  · rw [State.commit, hev]
    exact .refl t
  · rw [State.commit, hev]
    exact .clear rfl rfl rfl rfl
  · cases p with
    | producer =>
      rw [commit_producer hev]
      split
      · next hp =>
        have hbusy := inFlight_of_pPhase (s := s) (by simp [hp])
        rcases h with hturn | ⟨i, u, hturn, hx⟩
        · simp [hturn.idle_of_none] at hbusy
        · have hi := (hturn.eq_inFlightInstr hbusy).symm.trans (inFlightInstr_producer_of_busy hbusy)
          cases hi
          have hphase : u.pPhase = .stored := by rw [hturn.eq_inputs]; exact hp
          rw [exec_wr2 hturn.port_eq hphase] at hx
          cases hx
          have hlatch : u.pLatch = s.pLatch := by rw [hturn.eq_inputs]
          exact hlatch ▸ hturn.moves (moves_afterWR2 hphase)
      · next hp =>
        rcases h with hturn | ⟨i, u, hturn, hx⟩
        · exact hturn.moves (.refl t)
        · have hphase : u.pPhase ≠ .stored := by rw [hturn.eq_inputs]; exact hp
          exact hturn.moves (exec_producer_moves hturn.port_eq hphase hx)
    | consumer =>
      rw [commit_consumer hev]
      split
      · next hp =>
        have hbusy := inFlight_of_cPhase (s := s) (by simp [hp])
        rcases h with hturn | ⟨i, u, hturn, hx⟩
        · simp [hturn.idle_of_none] at hbusy
        · have hi := (hturn.eq_inFlightInstr hbusy).symm.trans (inFlightInstr_consumer_of_busy hbusy)
          cases hi
          have hphase : u.cPhase = .loaded := by rw [hturn.eq_inputs]; exact hp
          rw [exec_rd2 hturn.port_eq hphase] at hx
          cases hx
          have hlatch : u.cLatch = s.cLatch := by rw [hturn.eq_inputs]
          exact hlatch ▸ hturn.moves (moves_afterRD2 hphase)
      · next hp =>
        rcases h with hturn | ⟨i, u, hturn, hx⟩
        · exact hturn.moves (.refl t)
        · have hphase : u.cPhase ≠ .loaded := by rw [hturn.eq_inputs]; exact hp
          exact hturn.moves (exec_consumer_moves hturn.port_eq hphase hx)
    | controller =>
      rw [commit_controller hev]
      rcases h with hturn | ⟨i, u, hturn, hx⟩
      · rw [hturn.nextCommand]
        exact hturn.moves (.refl t)
      · rw [hturn.nextCommand, ← hturn.cfg]
        exact hturn.moves (exec_controller_moves hturn.port_eq hx)

/-! ### The true numbers of operations (R195, R196, R200, R203) -/

theorem incW_mod (cfg : Config) (n : Nat) : incW cfg (n % cfg.range) = (n + 1) % cfg.range := Nat.mod_add_mod _ _ _

/-- A commit moves the counters and the slots as it moves the true numbers. -/
theorem Moves.tracks {c : Commit} {wt rt : Nat} (h : Moves s t c) (hcfg : t.cfg = s.cfg) (ht : s.Tracks wt rt) :
    t.Tracks (c.count (wt, rt)).1 (c.count (wt, rt)).2 := by
  obtain ⟨hw, hr, hws, hrs⟩ := ht
  cases h with
  | nothing capacity writes reads writeSlot readSlot =>
    rw [← writes, ← hcfg] at hw
    rw [← reads, ← hcfg] at hr
    rw [← writeSlot, ← capacity] at hws
    rw [← readSlot, ← capacity] at hrs
    exact ⟨hw, hr, hws, hrs⟩
  | push _ capacity writes reads writeSlot readSlot =>
    refine ⟨?_, by rw [reads, hcfg, hr]; rfl, fun hc => ?_, fun hc => ?_⟩
    · rw [writes, hw, hcfg, incW_mod]; rfl
    · rw [capacity] at hc
      rw [writeSlot, hws hc, advIndex_mod, capacity]; rfl
    · rw [capacity] at hc
      rw [readSlot, hrs hc, capacity]; rfl
  | pop _ capacity writes reads writeSlot readSlot =>
    refine ⟨by rw [writes, hcfg, hw]; rfl, ?_, fun hc => ?_, fun hc => ?_⟩
    · rw [reads, hr, hcfg, incW_mod]; rfl
    · rw [capacity] at hc
      rw [writeSlot, hws hc, capacity]; rfl
    · rw [capacity] at hc
      rw [readSlot, hrs hc, advIndex_mod, capacity]; rfl
  | clear writes reads writeSlot readSlot =>
    exact ⟨by simp [writes, Commit.count], by simp [reads, Commit.count], fun _ => by simp [writeSlot, Commit.count],
      fun _ => by simp [readSlot, Commit.count]⟩

/-- Settles O48: the commit of the step moves counters, slots and true numbers alike. -/
theorem countersAndIndicesTrackTheOperations : Obligations.CountersAndIndicesTrackTheOperations :=
  fun _ _ _ _ _ htracks he => (step_moves he).tracks (step_cfg he) htracks

/-- Settles O49: the counters are the true numbers modulo `2^W`, and so is their difference. -/
theorem occupancyIsTheUnreadCountModuloRange : Obligations.OccupancyIsTheUnreadCountModuloRange := by
  intro s wt rt ht
  refine ⟨?_, fun hle hlt => ?_⟩
  · have hcast := subW_cast s.cfg s.writeCount s.readCount
    rw [ht.writeCount_eq, ht.readCount_eq, Int.natCast_mod, Int.natCast_mod, ← Int.sub_emod] at hcast
    rw [State.occupied, occupiedOf, ht.writeCount_eq, ht.readCount_eq, hcast]
    simp [Config.range]
  · have hr := s.cfg.range_pos
    have hlt' : wt - rt ≤ s.cfg.range - 1 := hlt
    refine subW_unique s.cfg (by omega) ?_
    rw [ht.writeCount_eq, ht.readCount_eq, Nat.mod_mod, Nat.mod_add_mod, Nat.add_sub_cancel' hle]

/-- Settles O50: both slots are true numbers modulo the capacity, `n` apart. -/
theorem slotsCoincideWhenCapacityDividesTheCount : Obligations.SlotsCoincideWhenCapacityDividesTheCount := by
  intro s n rt hc ht
  rw [ht.writeIndex_eq hc, ht.readIndex_eq hc, eq_comm]
  exact (Nat.modEq_iff_dvd' (Nat.le_add_right rt n)).trans (by rw [Nat.add_sub_cancel_left])

end Sys2Proof.Machine
end

section
/-! PROOF. The abstract queue (43_arithmetic_and_properties.md R198, R204, R207): between sound states every step does to the
logical content what its commit says, and so a run that nothing empties is first-in first-out. -/

namespace Sys2Proof.Machine

variable {s t : State} {es : List Event} {c : Commit}

/-! ### The occupancy -/

theorem occupied_congr (hcfg : t.cfg = s.cfg) (hw : t.writeCount = s.writeCount) (hr : t.readCount = s.readCount) :
    t.occupied = s.occupied := by
  rw [State.occupied, State.occupied, hcfg, hw, hr]

theorem Moves.occupied_push {b : Byte} (h : Moves s t (.push b)) (hcfg : t.cfg = s.cfg) (hs : s.Sound) :
    t.occupied = s.occupied + 1 := by
  cases h with
  | push stored _ writes reads =>
    rw [State.occupied, hcfg, writes, reads]
    exact afterWR2_occupied hs.inv.capacity_lt (hs.queue.room (.inr stored))

theorem Moves.occupied_pop {b : Byte} (h : Moves s t (.pop b)) (hcfg : t.cfg = s.cfg) (hs : s.Sound) :
    s.occupied = t.occupied + 1 := by
  cases h with
  | pop loaded _ writes reads =>
    have hdata := hs.queue.data (.inr loaded)
    have hocc : t.occupied = s.occupied - 1 := by
      rw [State.occupied, hcfg, writes, reads]
      exact afterRD2_occupied hdata
    omega

/-- Settles O58: port C's turn commits a `READ` or nothing, port P's a `WRITE` or nothing. -/
theorem otherPortCannotRevokeALicence : Obligations.OtherPortCannotRevokeALicence := by
  intro s t es hs he
  have hcfg := step_cfg he
  have hmoves := step_moves he
  refine ⟨fun hev => ?_, fun hev => ?_⟩
  · rw [commit_consumer hev] at hmoves
    split at hmoves
    · exact Nat.le_of_succ_le (hmoves.occupied_pop hcfg hs).ge
    · cases hmoves with
      | nothing _ writes reads => exact (occupied_congr hcfg writes reads).le
  · rw [commit_producer hev] at hmoves
    split at hmoves
    · exact (hmoves.occupied_push hcfg hs).ge.trans' (Nat.le_succ _)
    · cases hmoves with
      | nothing _ writes reads => exact (occupied_congr hcfg writes reads).ge

/-! ### The content -/

/-- The `k`-th unread byte, the oldest one first. -/
def State.unread (s : State) (k : Nat) : Byte := s.byteAt ((s.nextReadSlot + k) % s.capacity)

theorem contents_eq (s : State) : s.contents = (List.range s.occupied).map s.unread := rfl

theorem contents_length (s : State) : s.contents.length = s.occupied := by
  rw [contents_eq, List.length_map, List.length_range]

theorem byteAt_congr (hcfg : t.cfg = s.cfg) (hm : t.storage = s.storage) (j : Nat) : t.byteAt j = s.byteAt j := by
  rw [State.byteAt, State.byteAt, hcfg, hm]

/-- The next store goes to the slot after the last unread byte (R203). -/
theorem State.Sound.byteAt_nextWriteSlot (hs : s.Sound) (hc : s.capacity ≠ 0) :
    s.byteAt s.nextWriteSlot = s.unread s.occupied := by
  rw [State.unread, ← hs.queue.slots hc]

/-- While there is room the next store meets no unread byte. -/
theorem State.Sound.unread_slot_ne (hs : s.Sound) {k : Nat} (hk : k < s.occupied) (hroom : s.occupied < s.capacity) :
    (s.nextReadSlot + k) % s.capacity ≠ s.nextWriteSlot := by
  rw [hs.queue.slots (by omega)]
  intro heq
  have := slot_offset_inj (Nat.lt_trans hk hroom) hroom heq
  omega

/-- A byte stored into the next slot leaves the bytes of the other ones. -/
theorem byteAt_of_storedAt {j slot : Nat} {v : Byte} (hcfg : t.cfg = s.cfg) (hm : t.storage = s.storedAt slot v)
    (hj : j ≠ slot) : t.byteAt j = s.byteAt j := by
  rw [State.byteAt, hcfg, hm]
  exact Memory.readByte_writeByte_other _ _ (mt slotAddress_inj.mp hj)

/-- A step that commits nothing leaves the content: a byte that it stores comes after the last unread one. -/
theorem Moves.contents_nothing (h : Moves s t .nothing) (hcfg : t.cfg = s.cfg) (hs : s.Sound) (ht : t.Sound) :
    t.contents = s.contents := by
  cases h with
  | nothing capacity writes reads _ readSlot bytes =>
    have hocc := occupied_congr hcfg writes reads
    rw [contents_eq, contents_eq, hocc]
    refine List.map_congr_left fun k hk => ?_
    rw [State.unread, State.unread, capacity, readSlot]
    rcases bytes with hsame | ⟨hstored, v, hstore⟩
    · exact byteAt_congr hcfg hsame _
    · have hroom := ht.queue.room (.inr hstored)
      rw [hocc, capacity] at hroom
      exact byteAt_of_storedAt hcfg hstore (hs.unread_slot_ne (List.mem_range.mp hk) hroom)

/-- `WR2` appends the byte that `WR1` has stored. -/
theorem Moves.contents_push {b : Byte} (h : Moves s t (.push b)) (hcfg : t.cfg = s.cfg) (hs : s.Sound) :
    t.contents = s.contents ++ [b] := by
  have hocc := h.occupied_push hcfg hs
  cases h with
  | push stored capacity _ _ _ readSlot bytes =>
    have hunread : t.unread = s.unread := by
      funext k
      rw [State.unread, State.unread, capacity, readSlot, byteAt_congr hcfg bytes]
    have hc : s.capacity ≠ 0 := Nat.ne_zero_of_lt (hs.queue.room (.inr stored))
    have hlast : s.unread s.occupied = s.pLatch := by
      rw [← hs.byteAt_nextWriteSlot hc, nextWriteSlot_of_ne_counted (by simp [stored])]
      exact hs.queue.stored_byte stored
    rw [contents_eq, contents_eq, hocc, hunread, List.range_succ, List.map_append, List.map_singleton, hlast]

/-- `RD2` takes the oldest byte, the one that `RD1` has loaded. -/
theorem Moves.contents_pop {b : Byte} (h : Moves s t (.pop b)) (hcfg : t.cfg = s.cfg) (hs : s.Sound) :
    s.contents = b :: t.contents := by
  have hocc := h.occupied_pop hcfg hs
  cases h with
  | pop loaded capacity _ _ _ readSlot bytes =>
    have hc : s.capacity ≠ 0 := by
      have hle := hs.queue.occupied_le
      omega
    have hslot : s.nextReadSlot = s.readIndex := nextReadSlot_of_ne_counted (by simp [loaded])
    have hfirst : s.unread 0 = s.cLatch := by
      rw [State.unread, hslot, Nat.add_zero, Nat.mod_eq_of_lt (hs.inv.indices_lt hc).2]
      exact hs.queue.loaded_byte loaded
    have hrest (k : Nat) : s.unread (k + 1) = t.unread k := by
      rw [State.unread, State.unread, capacity, readSlot, byteAt_congr hcfg bytes, advIndex, Nat.mod_add_mod]
      congr 2
      omega
    rw [contents_eq, contents_eq, hocc, List.range_succ_eq_map, List.map_cons, List.map_map, hfirst]
    exact congrArg _ (List.map_congr_left fun k _ => hrest k)

theorem Moves.contents_clear (h : Moves s t .clear) : t.contents = [] := by
  cases h with
  | clear writes reads =>
    have hocc : t.occupied = 0 := by rw [State.occupied, occupiedOf, writes, reads, subW_self]
    rw [contents_eq, hocc]
    rfl

theorem Moves.takes (h : Moves s t c) (hcfg : t.cfg = s.cfg) (hs : s.Sound) (ht : t.Sound) :
    c.Takes s.contents t.contents := by
  cases c with
  | nothing => exact h.contents_nothing hcfg hs ht
  | push b => exact h.contents_push hcfg hs
  | pop b => exact h.contents_pop hcfg hs
  | clear => exact h.contents_clear

/-- A step between sound states is one of the abstract queue. -/
theorem step_takes (hs : s.Sound) (ht : t.Sound) (he : step s = .next t) : s.commit.Takes s.contents t.contents :=
  (step_moves he).takes (step_cfg he) hs ht

/-- Settles O55: both kinds of steps lead to sound states. -/
theorem stepRefinesTheAbstractQueue : Obligations.StepRefinesTheAbstractQueue := by
  intro s t h he
  have hsound : s.Sound ∧ t.Sound := by
    rcases h with ⟨hs, hin⟩ | ⟨hs, hctrl⟩
    · exact ⟨hs, step_sound hs hin he⟩
    · exact ⟨hs.toSound, (step_checked hs (.inr hctrl) he).toSound⟩
  exact ⟨step_takes hsound.1 hsound.2 he, contents_length t⟩

/-! ### Runs -/

/-- The bytes that a commit adds to those written, and to those read. -/
def Commit.writes : Commit → List Byte
  | .push b => [b]
  | _ => []

def Commit.reads : Commit → List Byte
  | .pop b => [b]
  | _ => []

theorem written_succ {n : Nat} (he : step s = .next t) : written (n + 1) s = s.commit.writes ++ written n t := by
  rw [written, he]
  rfl

theorem readOut_succ {n : Nat} (he : step s = .next t) : readOut (n + 1) s = s.commit.reads ++ readOut n t := by
  rw [readOut, he]
  rfl

theorem neverCleared_succ {n : Nat} (he : step s = .next t) :
    neverCleared (n + 1) s = true ↔ s.commit ≠ .clear ∧ neverCleared n t = true := by
  rw [neverCleared, he]
  simp

/-- What is in the queue and what a commit writes is what it reads and what is then in the queue, in order. -/
theorem Commit.Takes.fifo {q q' : List Byte} (h : c.Takes q q') (hc : c ≠ .clear) : q ++ c.writes = c.reads ++ q' := by
  cases c with
  | nothing => exact (List.append_nil q).trans h.symm
  | push b => exact h.symm
  | pop b => exact (List.append_nil q).trans h
  | clear => exact absurd rfl hc

/-- The runs that R198 speaks of: in contract, or of a hardened block. -/
def Fifo (n : Nat) (s : State) : Prop := s.Sound ∧ runInContract n s ∨ s.Checked ∧ s.cfg.hardened = true

theorem Fifo.sound {n : Nat} (h : Fifo n s) : s.Sound := h.elim And.left fun hc => hc.1.toSound

/-- After its first step such a run is one still. -/
theorem Fifo.step {n : Nat} (h : Fifo (n + 1) s) (he : Machine.step s = .next t) : Fifo n t := by
  rcases h with ⟨hs, hin, hrest⟩ | ⟨hs, hh⟩
  · exact .inl ⟨step_sound hs hin he, hrest t he⟩
  · exact .inr ⟨step_checked hs (.inl hh) he, (congrArg Config.hardened (step_cfg he)).trans hh⟩

theorem run_fifo (n : Nat) (h : Fifo n s) (hrun : Host.Core.run Sys2Proof.core n s = .next t)
    (hclear : neverCleared n s = true) : s.contents ++ written n s = readOut n s ++ t.contents := by
  induction n generalizing s with
  | zero =>
    cases hrun
    exact List.append_nil _
  | succ n ih =>
    rw [run_succ] at hrun
    cases he : Machine.step s with
    | fault e => simp [he] at hrun
    | refused r => simp [he] at hrun
    | next u =>
      rw [he] at hrun
      obtain ⟨hc, hrest⟩ := (neverCleared_succ he).mp hclear
      have hu := h.step he
      have hfirst := (step_takes h.sound hu.sound he).fifo hc
      rw [written_succ he, readOut_succ he, ← List.append_assoc, hfirst, List.append_assoc, ih hu hrun hrest,
        List.append_assoc]

/-- Settles O56: by induction on the length of the run, a step being one of the queue. -/
theorem runsAreFirstInFirstOut : Obligations.RunsAreFirstInFirstOut := fun n _ _ => run_fifo n

end Sys2Proof.Machine
end

section
/-! PROOF. The micro-steps of a `WRITE` and a `READ` in flight commute (42_data_ops.md R177): each reads and writes its own side of
the block, and the one slot that both could touch is not the same in contract. -/

namespace Sys2Proof.Machine

variable {s t u : State} {es : List Event}

/-! ### The next micro-step of an operation in flight -/

/-- After the next micro-step of a `WRITE` in flight. -/
def State.moveWrite (s : State) : State :=
  match s.pPhase with
  | .idle => s.afterWR1 s.pLatch
  | .stored => s.afterWR2
  | .counted => s.afterWR3.respond .ok 0

/-- After the next micro-step of a `READ` in flight. -/
def State.moveRead (s : State) : State :=
  match s.cPhase with
  | .idle => s.afterRD1
  | .loaded => s.afterRD2
  | .counted => s.afterRD3.respond .ok (byteValue s.cLatch)

theorem pChecked_of_inFlight (h : s.inFlight .producer = true) (hp : s.pPhase = .idle) : s.pChecked = true := by
  simpa [State.inFlight, hp, WritePhase.busy] using h

theorem cChecked_of_inFlight (h : s.inFlight .consumer = true) (hp : s.cPhase = .idle) : s.cChecked = true := by
  simpa [State.inFlight, hp, ReadPhase.busy] using h

theorem exec_moveWrite (hs : s.Sound) (hport : s.port = .producer) (hbusy : s.inFlight .producer = true) :
    exec (.write s.pLatch) s = .next s.moveWrite := by
  have hc := hs.inv.capacity_ne_zero (.inl hbusy)
  unfold State.moveWrite
  cases hp : s.pPhase with
  | idle =>
    have hchecked := pChecked_of_inFlight hbusy hp
    exact exec_wr1_checked hport hp (hs.inv.pChecked_idle hchecked).1 hchecked (hs.writeIndex_lt_depth hc)
  | stored => exact exec_wr2 hport hp
  | counted => exact exec_wr3 hport hp hc

theorem exec_moveRead (hs : s.Sound) (hport : s.port = .consumer) (hbusy : s.inFlight .consumer = true) :
    exec .read s = .next s.moveRead := by
  have hc := hs.inv.capacity_ne_zero (.inr hbusy)
  unfold State.moveRead
  cases hp : s.cPhase with
  | idle =>
    have hchecked := cChecked_of_inFlight hbusy hp
    exact exec_rd1_checked hport hp (hs.inv.cChecked_idle hchecked).1 hchecked (hs.readIndex_lt_depth hc)
  | loaded => exact exec_rd2 hport hp
  | counted => exact exec_rd3 hport hp hc

/-- An operation in flight needs no licence any more. -/
theorem licensed_moveWrite {v : Byte} (hbusy : s.inFlight .producer = true) : Licensed (.write v) s :=
  ⟨fun _ _ _ hidle => by simp [hbusy] at hidle, nofun, nofun⟩

theorem licensed_moveRead (hbusy : s.inFlight .consumer = true) : Licensed .read s :=
  ⟨nofun, fun _ _ hidle => by simp [hbusy] at hidle, nofun⟩

/-- The state in which port `p` has the turn, with the events `es` left. -/
def State.atTurn (s : State) (p : Port) (es : List Event) : State := (s.withEvents es).withTurn p

theorem atTurn_sound (hs : s.Sound) (p : Port) : (s.atTurn p es).Sound :=
  ⟨hs.inv.withInputs es p s.reqs s.checks, hs.queue.withInputs es p s.reqs s.checks, hs.capacity_le_depth, hs.requests_fit⟩

@[simp] theorem atTurn_inFlight (p q : Port) : (s.atTurn p es).inFlight q = s.inFlight q := by simp [State.atTurn]

/-- Port P's turn with its `WRITE` in flight. -/
theorem step_moveWrite (hs : s.Sound) (hev : s.events = .turn .producer :: es) (hbusy : s.inFlight .producer = true) :
    step s = .next (s.atTurn .producer es).moveWrite :=
  (step_goesOn hev (inFlightInstr_producer_of_busy hbusy)).trans
    (exec_moveWrite (atTurn_sound hs .producer) rfl (by simpa using hbusy))

/-- Port C's turn with its `READ` in flight. -/
theorem step_moveRead (hs : s.Sound) (hev : s.events = .turn .consumer :: es) (hbusy : s.inFlight .consumer = true) :
    step s = .next (s.atTurn .consumer es).moveRead :=
  (step_goesOn hev (inFlightInstr_consumer_of_busy hbusy)).trans
    (exec_moveRead (atTurn_sound hs .consumer) rfl (by simpa using hbusy))

theorem moveWrite_sound (hs : s.Sound) (hbusy : s.inFlight .producer = true) : (s.atTurn .producer es).moveWrite.Sound :=
  have hbusy' : (s.atTurn .producer es).inFlight .producer = true := by simpa using hbusy
  exec_sound (atTurn_sound hs _) (licensed_moveWrite hbusy') (exec_moveWrite (atTurn_sound hs _) rfl hbusy')

theorem moveRead_sound (hs : s.Sound) (hbusy : s.inFlight .consumer = true) : (s.atTurn .consumer es).moveRead.Sound :=
  have hbusy' : (s.atTurn .consumer es).inFlight .consumer = true := by simpa using hbusy
  exec_sound (atTurn_sound hs _) (licensed_moveRead hbusy') (exec_moveRead (atTurn_sound hs _) rfl hbusy')

/-! ### The two sides of the block -/

/-- The states agree in all that a `WRITE` in flight reads or writes, but for what it leaves for port X to see. -/
structure SameWriter (s t : State) : Prop where
  cfg : t.cfg = s.cfg
  capacity : t.capacity = s.capacity
  storage : t.storage = s.storage
  index : t.writeIndex = s.writeIndex
  count : t.writeCount = s.writeCount
  phase : t.pPhase = s.pPhase
  latch : t.pLatch = s.pLatch
  checked : t.pChecked = s.pChecked
  views : t.views.cWriteCounts = s.views.cWriteCounts
  rsp : t.rsp.get .producer = s.rsp.get .producer

/-- The states agree in all that a `READ` in flight reads or writes, but for the storage and what it leaves for port X to see. -/
structure SameReader (s t : State) : Prop where
  cfg : t.cfg = s.cfg
  capacity : t.capacity = s.capacity
  index : t.readIndex = s.readIndex
  count : t.readCount = s.readCount
  phase : t.cPhase = s.cPhase
  latch : t.cLatch = s.cLatch
  checked : t.cChecked = s.cChecked
  views : t.views.pReadCounts = s.views.pReadCounts
  rsp : t.rsp.get .consumer = s.rsp.get .consumer

/-- The states agree in what no micro-step of `WRITE` or `READ` writes. -/
structure SameRest (s t : State) : Prop where
  draws : t.draws = s.draws
  reqs : t.reqs = s.reqs
  checks : t.checks = s.checks
  rsp : t.rsp.get .controller = s.rsp.get .controller

theorem SameWriter.symm (h : SameWriter s t) : SameWriter t s :=
  ⟨h.cfg.symm, h.capacity.symm, h.storage.symm, h.index.symm, h.count.symm, h.phase.symm, h.latch.symm, h.checked.symm,
    h.views.symm, h.rsp.symm⟩

theorem SameWriter.trans (h : SameWriter s t) (h' : SameWriter t u) : SameWriter s u :=
  ⟨h'.cfg.trans h.cfg, h'.capacity.trans h.capacity, h'.storage.trans h.storage, h'.index.trans h.index,
    h'.count.trans h.count, h'.phase.trans h.phase, h'.latch.trans h.latch, h'.checked.trans h.checked,
    h'.views.trans h.views, h'.rsp.trans h.rsp⟩

theorem SameReader.symm (h : SameReader s t) : SameReader t s :=
  ⟨h.cfg.symm, h.capacity.symm, h.index.symm, h.count.symm, h.phase.symm, h.latch.symm, h.checked.symm, h.views.symm,
    h.rsp.symm⟩

theorem SameReader.trans (h : SameReader s t) (h' : SameReader t u) : SameReader s u :=
  ⟨h'.cfg.trans h.cfg, h'.capacity.trans h.capacity, h'.index.trans h.index, h'.count.trans h.count,
    h'.phase.trans h.phase, h'.latch.trans h.latch, h'.checked.trans h.checked, h'.views.trans h.views, h'.rsp.trans h.rsp⟩

theorem sameWriter_atTurn (s : State) (p : Port) (es : List Event) : SameWriter s (s.atTurn p es) := by
  constructor <;> rfl

theorem sameReader_atTurn (s : State) (p : Port) (es : List Event) : SameReader s (s.atTurn p es) := by
  constructor <;> rfl

/-- States that agree in every part are equal but for the events, the last turn and what port X may be given. -/
theorem eq_of_same (hw : SameWriter s t) (hr : SameReader s t) (h : SameRest s t) :
    t = { s with events := t.events, port := t.port, views := { s.views with xInstants := t.views.xInstants } } := by
  have hrsp : t.rsp = s.rsp := by
    have hp := hw.rsp
    have hc := hr.rsp
    have hx := h.rsp
    revert hp hc hx
    cases t.rsp
    cases s.rsp
    rintro rfl rfl rfl
    rfl
  have hviews : t.views = { s.views with xInstants := t.views.xInstants } := by
    simp only [← hw.views, ← hr.views]
  exact State.ext hw.cfg hw.capacity hw.index hr.index hw.count hr.count hw.storage hw.phase hw.latch hw.checked hr.phase
    hr.latch hr.checked hrsp hviews h.draws h.reqs h.checks rfl rfl

/-! ### Each micro-step keeps to its side -/

theorem moveWrite_sameReader (hport : s.port = .producer) : SameReader s s.moveWrite := by
  have hviews : s.viewsAfterCountedWrite.pReadCounts = s.views.pReadCounts := by
    rw [viewsAfterCountedWrite_eq_ite]; split <;> rfl
  unfold State.moveWrite
  cases s.pPhase with
  | idle => constructor <;> rfl
  | stored =>
    constructor
    case views => exact hviews
    all_goals rfl
  | counted => constructor <;> simp [hport]

theorem moveRead_sameWriter (hport : s.port = .consumer) : SameWriter s s.moveRead := by
  have hviews : s.viewsAfterCountedRead.cWriteCounts = s.views.cWriteCounts := by
    rw [viewsAfterCountedRead_eq_ite]; split <;> rfl
  unfold State.moveRead
  cases s.cPhase with
  | idle => constructor <;> rfl
  | loaded =>
    constructor
    case views => exact hviews
    all_goals rfl
  | counted => constructor <;> simp [hport]

theorem moveWrite_sameRest (hport : s.port = .producer) : SameRest s s.moveWrite := by
  unfold State.moveWrite
  cases s.pPhase <;> constructor <;> simp [hport]

theorem moveRead_sameRest (hport : s.port = .consumer) : SameRest s s.moveRead := by
  unfold State.moveRead
  cases s.cPhase <;> constructor <;> simp [hport]

/-- What a micro-step of `WRITE` does is a function of the writer's side. -/
theorem SameWriter.moveWrite (h : SameWriter s t) (hs : s.port = .producer) (ht : t.port = .producer) :
    SameWriter s.moveWrite t.moveWrite := by
  obtain ⟨hcfg, hcap, hstorage, hindex, hcount, hphase, hlatch, hchecked, hviews, hrsp⟩ := h
  have hcounted : t.viewsAfterCountedWrite.cWriteCounts = s.viewsAfterCountedWrite.cWriteCounts := by
    rw [viewsAfterCountedWrite_eq_ite, viewsAfterCountedWrite_eq_ite, hcfg]
    split
    · exact hviews
    · simp [hviews, hcount]
  unfold State.moveWrite
  rw [hphase]
  cases s.pPhase <;> constructor <;> simp [State.storedAt, *]

/-- What a micro-step of `READ` does is a function of the reader's side, and of the byte that it loads. -/
theorem SameReader.moveRead (h : SameReader s t) (hs : s.port = .consumer) (ht : t.port = .consumer)
    (hbyte : s.cPhase = .idle → t.byteAt t.readIndex = s.byteAt s.readIndex) : SameReader s.moveRead t.moveRead := by
  obtain ⟨hcfg, hcap, hindex, hcount, hphase, hlatch, hchecked, hviews, hrsp⟩ := h
  have hcounted : t.viewsAfterCountedRead.pReadCounts = s.viewsAfterCountedRead.pReadCounts := by
    rw [viewsAfterCountedRead_eq_ite, viewsAfterCountedRead_eq_ite, hcfg]
    split
    · exact hviews
    · simp [hviews, hcount]
  unfold State.moveRead
  rw [hphase]
  cases hc : s.cPhase with
  | idle =>
    have hload := hbyte hc
    rw [hindex] at hload
    constructor <;> simp [*]
  | loaded | counted => constructor <;> simp [*]

/-- In contract a `WRITE` in flight stores no byte that a `READ` in flight is about to load. -/
theorem moveWrite_byteAt_readIndex (hs : s.Sound) (hp : s.inFlight .producer = true) (hc : s.inFlight .consumer = true)
    (hidle : s.cPhase = .idle) : s.moveWrite.byteAt s.readIndex = s.byteAt s.readIndex := by
  unfold State.moveWrite
  cases hphase : s.pPhase with
  | idle =>
    have hroom := hs.queue.room (.inl (pChecked_of_inFlight hp hphase))
    have hdata := hs.queue.data (.inl (cChecked_of_inFlight hc hidle))
    have hne := hs.queue.nextSlots_ne hs.inv hdata hroom
    rw [nextWriteSlot_of_ne_counted (by simp [hphase]), nextReadSlot_of_ne_counted (by simp [hidle])] at hne
    exact (afterWR1_byteAt _).trans (if_neg hne.symm)
  | stored | counted => rfl

/-! ### Both orders -/

/-- Port P's micro-step, then port C's. -/
def State.writeThenRead (s : State) (es : List Event) : State :=
  ((s.atTurn .producer (.turn .consumer :: es)).moveWrite.atTurn .consumer es).moveRead

/-- Port C's micro-step, then port P's. -/
def State.readThenWrite (s : State) (es : List Event) : State :=
  ((s.atTurn .consumer (.turn .producer :: es)).moveRead.atTurn .producer es).moveWrite

theorem moveWrite_consumer_inFlight (hport : s.port = .producer) : s.moveWrite.inFlight .consumer = s.inFlight .consumer := by
  have h := moveWrite_sameReader hport
  simp [State.inFlight, h.phase, h.checked]

theorem moveRead_producer_inFlight (hport : s.port = .consumer) : s.moveRead.inFlight .producer = s.inFlight .producer := by
  have h := moveRead_sameWriter hport
  simp [State.inFlight, h.phase, h.checked]

theorem moveWrite_events (s : State) : s.moveWrite.events = s.events := by
  unfold State.moveWrite
  cases s.pPhase <;> rfl

theorem moveRead_events (s : State) : s.moveRead.events = s.events := by
  unfold State.moveRead
  cases s.cPhase <;> rfl

theorem moveWrite_port (s : State) : s.moveWrite.port = s.port := by
  unfold State.moveWrite
  cases s.pPhase <;> rfl

theorem withEvents_sound (hs : s.Sound) (es : List Event) : (s.withEvents es).Sound :=
  atTurn_sound (es := es) hs s.port

theorem run_two (h : step s = .next t) (h' : step t = .next u) : Host.Core.run Sys2Proof.core 2 s = .next u := by
  simp only [run_succ, h, h']
  rfl

section bothInFlight

variable (hs : s.Sound) (hp : s.inFlight .producer = true) (hc : s.inFlight .consumer = true)

include hs hp hc

theorem run_writeThenRead (hev : s.events = .turn .producer :: .turn .consumer :: es) :
    Host.Core.run Sys2Proof.core 2 s = .next (s.writeThenRead es) ∧ (s.writeThenRead es).Sound := by
  have hsound := moveWrite_sound (es := .turn .consumer :: es) hs hp
  have hbusy : (s.atTurn .producer (.turn .consumer :: es)).moveWrite.inFlight .consumer = true := by
    rw [moveWrite_consumer_inFlight rfl, atTurn_inFlight, hc]
  exact ⟨run_two (step_moveWrite hs hev hp) (step_moveRead hsound (moveWrite_events _) hbusy), moveRead_sound hsound hbusy⟩

theorem run_readThenWrite (hev : s.events = .turn .consumer :: .turn .producer :: es) :
    Host.Core.run Sys2Proof.core 2 s = .next (s.readThenWrite es) ∧ (s.readThenWrite es).Sound := by
  have hsound := moveRead_sound (es := .turn .producer :: es) hs hc
  have hbusy : (s.atTurn .consumer (.turn .producer :: es)).moveRead.inFlight .producer = true := by
    rw [moveRead_producer_inFlight rfl, atTurn_inFlight, hp]
  exact ⟨run_two (step_moveRead hs hev hc) (step_moveWrite hsound (moveRead_events _) hbusy), moveWrite_sound hsound hbusy⟩

omit hs hp hc in
/-- Whether port C moves before or after it, port P's micro-step is the same. -/
theorem sameWriter_both_orders : SameWriter (s.writeThenRead es) (s.readThenWrite es) := by
  let a := s.atTurn .producer (.turn .consumer :: es)
  let b := s.atTurn .consumer (.turn .producer :: es)
  have hread : SameWriter a.moveWrite (s.writeThenRead es) :=
    (sameWriter_atTurn _ .consumer es).trans (moveRead_sameWriter rfl)
  have hstart : SameWriter a (b.moveRead.atTurn .producer es) :=
    (sameWriter_atTurn s _ _).symm.trans
      ((sameWriter_atTurn s _ _).trans ((moveRead_sameWriter rfl).trans (sameWriter_atTurn _ .producer es)))
  exact hread.symm.trans (hstart.moveWrite rfl rfl)

/-- Whether port P moves before or after it, port C's micro-step is the same: it loads the same byte. -/
theorem sameReader_both_orders : SameReader (s.writeThenRead es) (s.readThenWrite es) := by
  let a := s.atTurn .producer (.turn .consumer :: es)
  let b := s.atTurn .consumer (.turn .producer :: es)
  have hwrite : SameReader b.moveRead (s.readThenWrite es) :=
    (sameReader_atTurn _ .producer es).trans (moveWrite_sameReader rfl)
  have ha : SameReader a (a.moveWrite.atTurn .consumer es) :=
    (moveWrite_sameReader rfl).trans (sameReader_atTurn _ .consumer es)
  have hstart : SameReader b (a.moveWrite.atTurn .consumer es) :=
    (sameReader_atTurn s _ _).symm.trans ((sameReader_atTurn s _ _).trans ha)
  refine SameReader.trans (SameReader.symm (hstart.moveRead rfl rfl fun hidle => ?_)) hwrite
  rw [ha.index]
  exact moveWrite_byteAt_readIndex (s := a) (atTurn_sound hs _) ((atTurn_inFlight _ _).trans hp) ((atTurn_inFlight _ _).trans hc)
    hidle

omit hs hp hc in
theorem sameRest_both_orders : SameRest (s.writeThenRead es) (s.readThenWrite es) := by
  let a := s.atTurn .producer (.turn .consumer :: es)
  let b := s.atTurn .consumer (.turn .producer :: es)
  have ha : SameRest a a.moveWrite := moveWrite_sameRest rfl
  have ha' : SameRest (a.moveWrite.atTurn .consumer es) (s.writeThenRead es) := moveRead_sameRest rfl
  have hb : SameRest b b.moveRead := moveRead_sameRest rfl
  have hb' : SameRest (b.moveRead.atTurn .producer es) (s.readThenWrite es) := moveWrite_sameRest rfl
  exact ⟨(hb'.draws.trans hb.draws).trans (ha'.draws.trans ha.draws).symm,
    (hb'.reqs.trans hb.reqs).trans (ha'.reqs.trans ha.reqs).symm,
    (hb'.checks.trans hb.checks).trans (ha'.checks.trans ha.checks).symm,
    (hb'.rsp.trans hb.rsp).trans (ha'.rsp.trans ha.rsp).symm⟩

/-- The two orders lead to the same state, but for the last turn and what port X may be given. -/
theorem readThenWrite_eq :
    s.readThenWrite es = { s.writeThenRead es with
      port := .producer
      views := { (s.writeThenRead es).views with xInstants := (s.readThenWrite es).views.xInstants } } := by
  have heq := eq_of_same (sameWriter_both_orders (s := s) (es := es)) (sameReader_both_orders hs hp hc) sameRest_both_orders
  have hevents : (s.writeThenRead es).events = es := moveRead_events _
  have hevents' : (s.readThenWrite es).events = (s.writeThenRead es).events := (moveWrite_events _).trans hevents.symm
  have hport : (s.readThenWrite es).port = .producer := moveWrite_port _
  rwa [hevents', hport] at heq

end bothInFlight

/-- Settles O59: the states after both orders agree on port P's side, on port C's, and on the rest. -/
theorem inFlightMicroStepsCommute : Obligations.InFlightMicroStepsCommute := by
  intro s es hs hp hc
  obtain ⟨hrun, hsound⟩ := run_writeThenRead (s := s.withEvents (.turn .producer :: .turn .consumer :: es))
    (withEvents_sound hs _) (by simpa using hp) (by simpa using hc) rfl
  obtain ⟨hrun', hsound'⟩ := run_readThenWrite (s := s.withEvents (.turn .consumer :: .turn .producer :: es))
    (withEvents_sound hs _) (by simpa using hp) (by simpa using hc) rfl
  have hboth := readThenWrite_eq (es := es) hs hp hc
  refine ⟨s.writeThenRead es, (s.readThenWrite es).views.xInstants, hrun, hrun'.trans ?_, fun hsc => ?_⟩
  · exact congrArg (Host.Outcome.next (φ := Fault) (ρ := Refusal)) hboth
  · have hcfg : (s.writeThenRead es).cfg = s.cfg :=
      (moveRead_sameWriter rfl).cfg.trans (moveWrite_sameReader (s := s.atTurn .producer (.turn .consumer :: es)) rfl).cfg
    have hcfg' : (s.readThenWrite es).cfg = s.cfg := (sameWriter_both_orders (s := s)).cfg.trans hcfg
    have hfresh : (s.writeThenRead es).views = .fresh := hsound.inv.views_sc ((congrArg Config.view hcfg).trans hsc)
    have hfresh' : (s.readThenWrite es).views = .fresh := hsound'.inv.views_sc ((congrArg Config.view hcfg').trans hsc)
    rw [hfresh, hfresh']

end Sys2Proof.Machine
end

section
/-! PROOF. `INIT` and `FLUSH` (40_lifecycle_ops.md), snapshots and the status outputs (41_query_ops.md, 10_state.md R29 to R33). -/

namespace Sys2Proof.Machine

variable {s t : State} {c : Nat}

/-! ### `INIT` and `FLUSH` -/

theorem exclusiveFault_some (h : s.inFlight .producer = true ∨ s.inFlight .consumer = true) :
    s.exclusiveFault = some .exclusiveAccess := by
  rcases h with h | h <;> simp [State.exclusiveFault, h]

/-- Settles O9: both operations look for exclusive access before anything but the port. -/
theorem lifecycleNeedsExclusiveAccess : Obligations.LifecycleNeedsExclusiveAccess := by
  intro s c hport hbusy
  rw [execInit_controller hport, execFlush_controller hport, exclusiveFault_some hbusy]
  exact ⟨rfl, rfl⟩

section exclusive

variable (hport : s.port = .controller) (hp : s.inFlight .producer = false) (hq : s.inFlight .consumer = false)

include hport hp hq

theorem exec_flush_clears : exec .flush s = .next ((s.cleared s.capacity).respond .ok 0) := by
  rw [execFlush_controller hport]
  exact orFault_of_none (exclusiveFault_none.mpr ⟨hp, hq⟩)

theorem exec_init_installs (hlegal : s.cfg.hardened = true → 1 ≤ c ∧ c ≤ capMax s.cfg) :
    exec (.init c) s = .next ((s.cleared (capacityOperand s.cfg c)).respond .ok 0) := by
  have haccepted : (s.cfg.hardened && invalidCapacity s.cfg c) = false := by
    cases hh : s.cfg.hardened with
    | false => rfl
    | true => exact Bool.eq_false_iff.mpr fun hi => (invalidCapacity_iff s.cfg c).mp hi (hlegal hh)
  rw [execInit_controller hport, haccepted]
  exact orFault_of_none (exclusiveFault_none.mpr ⟨hp, hq⟩)

theorem exec_init_invalid (hh : s.cfg.hardened = true) (hillegal : ¬(1 ≤ c ∧ c ≤ capMax s.cfg)) :
    exec (.init c) s = .next (s.raise .invalidCapacity) := by
  rw [execInit_controller hport, hh, (invalidCapacity_iff s.cfg c).mpr hillegal]
  exact orFault_of_none (exclusiveFault_none.mpr ⟨hp, hq⟩)

end exclusive

theorem le_capMax_iff {cfg : Config} : c ≤ capMax cfg ↔ c ≤ 2 ^ cfg.w - 1 ∧ c ≤ cfg.depth := le_min_iff

/-- Settles O7: of the ways to raise an error only a hardened `INIT` gives `InvalidCapacity`, and it does for an illegal
capacity. -/
theorem invalidCapacityRaisedExactly : Obligations.InvalidCapacityRaisedExactly := by
  intro i s v
  constructor
  · rintro ⟨t, he, hrsp, hidle⟩
    obtain ⟨rfl, hraised⟩ := exec_ends_error he (by decide) hrsp hidle
    cases hraised with
    | @invalidCapacity c port hardened capacity eq =>
      rcases execInit_next he with ⟨hport, -⟩ | ⟨-, hp, hq, -⟩
      · exact absurd port hport
      · exact ⟨c, rfl, port, hp, hq, hardened, (invalidCapacity_iff s.cfg c).mp capacity, rfl⟩
  · rintro ⟨c, rfl, hport, hp, hq, hh, hillegal, rfl⟩
    exact ⟨_, exec_init_invalid hport hp hq hh hillegal, rfl, by rw [hport]; rfl⟩

/-- Clearing what is cleared, and answering again, changes nothing. -/
theorem cleared_respond_idem (s : State) (c : Nat) :
    (((s.cleared c).respond .ok 0).cleared c).respond .ok 0 = (s.cleared c).respond .ok 0 :=
  congrArg (fun r => { s.cleared c with rsp := r }) (PerPort.set_set s.rsp s.port _ _)

/-- Settles O10: both operations clear the fields and answer `OK 0`. -/
theorem flushTwiceIsFlushOnce : Obligations.FlushTwiceIsFlushOnce := by
  intro s t hport hlt he
  rcases execFlush_next he with ⟨hx, -⟩ | ⟨-, hp, hq, rfl⟩
  · exact absurd hport hx
  · refine ⟨?_, fun hlegal => ?_⟩
    · have hagain := exec_flush_clears (s := (s.cleared s.capacity).respond .ok 0) hport (by simpa using hp) (by simpa using hq)
      exact hagain.trans (congrArg _ (cleared_respond_idem s s.capacity))
    · have hoperand : capacityOperand s.cfg s.capacity = s.capacity := Nat.mod_eq_of_lt hlt
      rw [exec_init_installs hport hp hq fun hh => ?_, hoperand]
      obtain ⟨hpos, hdepth⟩ := hlegal hh
      exact ⟨hpos, le_capMax_iff.mpr ⟨Nat.le_sub_one_of_lt hlt, hdepth⟩⟩

/-! ### An empty queue -/

theorem subW_zero_right (cfg : Config) (a : Nat) : subW cfg a 0 = a % cfg.range :=
  subW_unique cfg (Nat.mod_lt _ cfg.range_pos) (by simp)

/-- With both counters 0 and nothing late to be given, every port is answered as R123 and R131 say. -/
theorem queries_of_empty (hw : s.writeCount = 0) (hr : s.readCount = 0) (hviews : s.views = .fresh) (p : Port) :
    (∃ u, exec .isempty (s.withTurn p) = .next u ∧ u.rsp.get p = some ⟨.ok, 1⟩) ∧
    (∃ u, exec .isfull (s.withTurn p) = .next u ∧ u.rsp.get p = some ⟨.ok, if s.capacity = 0 then 1 else 0⟩) ∧
    (∃ u, exec .availdata (s.withTurn p) = .next u ∧ u.rsp.get p = some ⟨.ok, 0⟩) ∧
    ∃ u, exec .availspace (s.withTurn p) = .next u ∧ u.rsp.get p = some ⟨.ok, s.capacity % 2 ^ s.cfg.w⟩ := by
  have hgiven : (s.withTurn p).given = ⟨0, 0, s.capacity⟩ := by
    rw [given_fresh (s := s.withTurn p) hviews, State.now, State.withTurn_writeCount, State.withTurn_readCount, hw, hr]
    rfl
  have hoccupied : (s.withTurn p).givenOccupied = 0 := by
    rw [State.givenOccupied, hgiven]
    exact subW_self _ _
  have hspace : (s.withTurn p).given.space s.cfg = s.capacity % 2 ^ s.cfg.w := by
    rw [hgiven, Instant.space, Instant.occupied, occupiedOf, subW_self]
    exact subW_zero_right _ _
  have answers {i : Instr} {v w : Nat} (hv : queryValue i (s.withTurn p) = some v) (hvw : v = w) :
      ∃ u, exec i (s.withTurn p) = .next u ∧ u.rsp.get p = some ⟨.ok, w⟩ :=
    ⟨_, exec_query hv, by simp [hvw]⟩
  refine ⟨answers rfl ?_, answers rfl ?_, answers rfl hoccupied, answers rfl hspace⟩
  · rw [hoccupied]; rfl
  · rw [hoccupied, hgiven]
    exact (boolValue_decide _).trans (if_congr Nat.le_zero rfl rfl)

/-- The status outputs of an empty queue. -/
theorem flags_of_empty (hw : s.writeCount = 0) (hr : s.readCount = 0) :
    s.emptyFlag = true ∧ (s.fullFlag = true ↔ s.capacity = 0) ∧ s.availData = 0 ∧
      s.availSpace = s.capacity % 2 ^ s.cfg.w := by
  have hoccupied : s.occupied = 0 := by rw [State.occupied, occupiedOf, hw, hr, subW_self]
  refine ⟨?_, ?_, hoccupied, ?_⟩
  · rw [State.emptyFlag, hoccupied]; rfl
  · simp [State.fullFlag, hoccupied, fullOf]
  · rw [State.availSpace, hoccupied]
    exact subW_zero_right _ _

/-- Settles O8: the state after `FLUSH` is an empty queue. -/
theorem flushClearsTheFourFields : Obligations.FlushClearsTheFourFields := by
  intro s
  refine ⟨encode_of_operand_zero s.cfg rfl, fun hport hp hq => ?_, fun hport => ?_⟩
  · refine ⟨_, exec_flush_clears hport hp hq, by rw [State.respond, State.cleared_port, hport]; rfl, ?_⟩
    obtain ⟨hempty, hfull, hdata, hspace⟩ := flags_of_empty (s := (s.cleared s.capacity).respond .ok 0) rfl rfl
    exact ⟨hempty, hfull, hdata, hspace, queries_of_empty rfl rfl rfl⟩
  · exact exec_illegal (Bool.eq_false_iff.mpr (mt legalOn_flush.mp hport))

/-- Settles O6: the state after an `INIT` that is not turned away is an empty queue of the capacity installed. -/
theorem initInstallsTheCapacity : Obligations.InitInstallsTheCapacity := by
  intro s c
  refine ⟨by simp [encode, Instr.opcode, Instr.operand], fun hport hp hq => ⟨fun hlegal => ?_, fun hh hillegal => ?_⟩,
    fun hport => ?_⟩
  · have hexec := exec_init_installs (c := c) hport hp hq fun hh =>
      have ⟨hpos, hmax, hdepth⟩ := hlegal hh
      ⟨hpos, le_capMax_iff.mpr ⟨hmax, hdepth⟩⟩
    refine ⟨_, hexec, by rw [State.respond, State.cleared_port, hport]; rfl, ?_⟩
    let t := (s.cleared (capacityOperand s.cfg c)).respond .ok 0
    have hreduced : t.capacity % 2 ^ t.cfg.w = c % 2 ^ s.cfg.w := Nat.mod_mod _ _
    obtain ⟨hempty, hfull, hdata, hspace⟩ := flags_of_empty (s := t) rfl rfl
    refine ⟨hempty, hfull, hdata, hspace.trans hreduced, fun p => ?_⟩
    obtain ⟨hisempty, hisfull, havaildata, havailspace⟩ := queries_of_empty (s := t) rfl rfl rfl p
    rw [hreduced] at havailspace
    exact ⟨hisempty, hisfull, havaildata, havailspace⟩
  · exact hport ▸ exec_init_invalid hport hp hq hh (by rwa [le_capMax_iff])
  · exact exec_illegal (Bool.eq_false_iff.mpr (mt legalOn_init.mp hport))

/-! ### Queries and snapshots -/

/-- Settles O15: a query answers, and beyond that its snapshot changes the model's own fields only. -/
theorem queriesChangeNothing : Obligations.QueriesChangeNothing := by
  intro s i hi
  obtain ⟨v, hv⟩ : ∃ v, queryValue i s = some v := by
    rcases hi with rfl | rfl | rfl | rfl <;> exact ⟨_, rfl⟩
  exact ⟨_, v, exec_query hv, by simp⟩

theorem observe_stale (h : s.cfg.view = .stale) :
    s.observe = { s with views := s.views.skip s.skips s.port, draws := s.draws + 1 } := by
  simp [State.observe, h]

/-- Settles O16: what is skipped is a free choice among the older values, and what is given is the first one kept. -/
theorem snapshotsGiveAllowedValues : Obligations.SnapshotsGiveAllowedValues := by
  intro s
  refine ⟨fun hsc => ⟨State.observe_sc s hsc, given_sc hsc⟩, fun hstale => ⟨fun hport => ?_, fun hport => ?_, fun hport => ?_⟩⟩
  · have hsnap := producer_snapshot hport (by simp [hstale])
    refine ⟨s.skips, by simp [State.skips, skipped, State.older, hport], ?_, hsnap⟩
    rw [observe_stale hstale, hport]
    rfl
  · have hsnap := consumer_snapshot hport (by simp [hstale])
    refine ⟨s.skips, by simp [State.skips, skipped, State.older, hport], ?_, hsnap⟩
    rw [observe_stale hstale, hport]
    rfl
  · have hsnap := observe_older_head hstale
    rw [hport] at hsnap
    refine ⟨s.skips, by simp [State.skips, skipped, State.older, hport], ?_, hsnap⟩
    rw [observe_stale hstale, hport]
    rfl

/-- Settles O17: the space is the number that added to the data gives the capacity. -/
theorem dataAndSpaceAddUpToCapacity : Obligations.DataAndSpaceAddUpToCapacity := by
  intro s
  refine ⟨add_subW s.cfg s.capacity s.occupied, fun hlt hle => ?_⟩
  rw [State.availSpace, spaceOf, subW_of_le hlt hle]
  exact Nat.add_sub_cancel' hle

/-! ### The outputs -/

theorem occupied_cast (s : State) : (s.occupied : Int) = ((s.writeCount : Int) - s.readCount) % 2 ^ s.cfg.w :=
  subW_cast_two_pow s.cfg _ _

/-- The response words are those of the last responses (R94). -/
theorem outputs_rsp (s : State) (p : Port) : s.outputs.rsp.get p = (s.rsp.get p).map (encodeResponse s.cfg) := by
  cases p <;> rfl

theorem outputs_cmdReady (s : State) (p : Port) : s.outputs.cmdReady.get p = !s.inFlight p := by
  cases p <;> rfl

/-- Under SC a query answers of the current instant and changes nothing but the response. -/
theorem exec_query_sc {i : Instr} {v : Nat} (hsc : s.cfg.view = .sc) (h : queryValue i s = some v) :
    exec i s = .next { s with rsp := s.rsp.set s.port (some ⟨.ok, v⟩) } := by
  rw [exec_query_rsp h, State.observe_sc s hsc]

/-- Settles O36: each output as its formula over the registers, and under SC as what the query computes from them. -/
theorem outputsFollowTheRegisters : Obligations.OutputsFollowTheRegisters := by
  intro s
  refine ⟨?_, ?_, occupied_cast s, subW_cast_two_pow s.cfg _ _, rfl, rfl, rfl, rfl, rfl, outputs_cmdReady s, fun p => ?_,
    fun hsc => ?_⟩
  · rw [← occupied_cast, Int.natCast_eq_zero]
    exact decide_eq_true_iff
  · rw [← occupied_cast, Int.ofNat_le]
    exact decide_eq_true_iff
  · rw [outputs_rsp]
    exact ⟨fun h => by rw [h]; rfl, fun e v h => by rw [h]; rfl⟩
  · have hoccupied := givenOccupied_sc hsc
    have hgiven := given_sc hsc
    refine ⟨exec_query_sc hsc ?_, exec_query_sc hsc ?_, exec_query_sc hsc ?_, exec_query_sc hsc ?_⟩
    · rw [queryValue, hoccupied]; rfl
    · rw [queryValue, hoccupied, hgiven]; rfl
    · rw [queryValue, hoccupied]; rfl
    · rw [queryValue, hgiven]; rfl

end Sys2Proof.Machine
end
